-- ==== Sys2Proof/Word.lean ====
section
/-! DEFINITION. The words of SWIFT-CORE: the byte and the 16-bit word, and `trunc`, the truncation primitive of
00_scope.md R10. Registers of a fixed width are `BitVec`; registers whose width is a parameter of the configuration
(addresses, lengths, symbol clocks, phase, sample) are natural numbers kept below `2 ^ width` by `trunc` (log 12). -/

namespace Sys2Proof

/-- An 8-bit byte: memory content, shift registers, command bytes. -/
abbrev Byte := BitVec 8

/-- The 16-bit value of the CRC accumulator (10_state.md R44). -/
abbrev Word16 := BitVec 16

/-- `trunc_N(v)` of 00_scope.md R10: the low `w` bits of `v`. -/
def trunc (w v : Nat) : Nat := v % 2 ^ w

end Sys2Proof
end

