-- ==== Sys2Proof/Config.lean ====
section
/-! DEFINITION. What is fixed before the machine runs: the constants of 00_scope.md R5, the parameters of R6 with the
reference configuration `CFG_REF`, the well-formedness of R7, and the values the spec leaves free (opaque, with no body). -/

namespace Sys2Proof

/-- The parameters the source leaves to the implementation (00_scope.md R6), less the waveform table, which has no
reference value and is the opaque `Config.waveLut`. -/
structure Config where
  /-- `TICK_RATE`: ticks per second of the Tick Source. -/
  tickRate : Nat
  /-- `RTTY_BAUD`: RTTY bit rate. -/
  rttyBaud : Nat
  /-- `CLK_BITS`: width of each symbol clock. -/
  clkBits : Nat
  /-- `PHASE_BITS`: width of the DDS phase accumulator. -/
  phaseBits : Nat
  /-- `LUT_BITS`: log2 of the number of entries of the waveform table. -/
  lutBits : Nat
  /-- `SAMPLE_BITS`: width of one waveform sample. -/
  sampleBits : Nat
  /-- `STEP_MARK`: phase step of the 1200 Hz tone. -/
  stepMark : Nat
  /-- `STEP_SPACE`: phase step of the 2200 Hz tone. -/
  stepSpace : Nat
  /-- `REST_COUNT`: the nominal rest count of the HDLC lifecycle. -/
  restCount : Nat
  /-- `ADDR_BITS`: width of a byte address in DATA and in CONST. -/
  addrBits : Nat
  /-- `LEN_BITS`: width of a transmit-buffer length. -/
  lenBits : Nat
  /-- `FRAME_CAP`: capacity in bytes of a frame buffer. -/
  frameCap : Nat
  /-- `B91_VALUE_BITS`: width of the value `B91.ENC` encodes. -/
  b91ValueBits : Nat
deriving DecidableEq, Repr

/-- `AFSK_BAUD` (00_scope.md R5). -/
def Config.afskBaud : Nat := 1200
/-- `F_MARK` in Hz (00_scope.md R5). -/
def Config.fMark : Nat := 1200
/-- `F_SPACE` in Hz (00_scope.md R5). -/
def Config.fSpace : Nat := 2200
/-- `FLAG`, the HDLC flag byte (00_scope.md R5). -/
def Config.flag : Byte := 0x7E#8
/-- `STUFF_RUN` (00_scope.md R5). -/
def Config.stuffRun : Nat := 5
/-- `PREAMBLE_FLAGS` (00_scope.md R5). -/
def Config.preambleFlags : Nat := 10
/-- `TRAIL_EXTRA` (00_scope.md R5). -/
def Config.trailExtra : Nat := 2
/-- `CTRL_UI`, the AX.25 control byte (00_scope.md R5). -/
def Config.ctrlUi : Byte := 0x03#8
/-- `PID_NOL3`, the AX.25 protocol-ID byte (00_scope.md R5). -/
def Config.pidNoL3 : Byte := 0xF0#8
/-- `CRC_POLY`, bit-reflected (00_scope.md R5). -/
def Config.crcPoly : Word16 := 0x8408#16
/-- `CRC_INIT`, the seed (00_scope.md R5). -/
def Config.crcInit : Word16 := 0xFFFF#16
/-- `B91_RADIX` (00_scope.md R5). -/
def Config.b91Radix : Nat := 91
/-- `B91_OFFSET`, the code of `'!'` (00_scope.md R5). -/
def Config.b91Offset : Nat := 33
/-- `CALL_LEN`, callsign bytes per address field (00_scope.md R5). -/
def Config.callLen : Nat := 6
/-- `RTTY_DATA_BITS` (00_scope.md R5). -/
def Config.rttyDataBits : Nat := 8

/-- `N_AFSK = TICK_RATE / AFSK_BAUD`, samples per AFSK bit (00_scope.md R6, 40_symbol_clock.md R130). -/
def Config.nAfsk (c : Config) : Nat := c.tickRate / Config.afskBaud

/-- `N_RTTY = TICK_RATE / RTTY_BAUD`, samples per RTTY bit (00_scope.md R6, 40_symbol_clock.md R130). -/
def Config.nRtty (c : Config) : Nat := c.tickRate / c.rttyBaud

/-- `2 ^ ADDR_BITS`, the size of each memory space (20_memory.md R60, R61). -/
def Config.spaceSize (c : Config) : Nat := 2 ^ c.addrBits

/-- `PREAMBLE_FLAGS + REST_COUNT`, the idle value of the rest counter (10_state.md R41). -/
def Config.restIdle (c : Config) : Nat := Config.preambleFlags + c.restCount

/-- A well-formed configuration: every constraint of 00_scope.md R6 holds (R7). -/
abbrev Config.WF (c : Config) : Prop :=
  c.tickRate % Config.afskBaud = 0 ∧ c.tickRate % c.rttyBaud = 0 ∧
  1 ≤ c.nAfsk ∧ 1 ≤ c.nRtty ∧
  c.nAfsk ≤ 2 ^ c.clkBits ∧ c.nRtty ≤ 2 ^ c.clkBits ∧
  1 ≤ c.lutBits ∧ c.lutBits ≤ c.phaseBits ∧ 1 ≤ c.sampleBits ∧
  0 < c.stepMark ∧ c.stepMark < 2 ^ (c.phaseBits - 1) ∧
  0 < c.stepSpace ∧ c.stepSpace < 2 ^ (c.phaseBits - 1) ∧
  1 ≤ c.restCount ∧ c.restIdle < 256 ∧
  8 ≤ c.addrBits ∧ 8 ≤ c.lenBits ∧
  32 ≤ c.frameCap ∧ c.frameCap < 2 ^ c.lenBits ∧
  1 ≤ c.b91ValueBits

/-- The reference configuration `CFG_REF` (00_scope.md R6). -/
def Config.ref : Config where
  tickRate := 9600
  rttyBaud := 50
  clkBits := 8
  phaseBits := 16
  lutBits := 8
  sampleBits := 8
  stepMark := 8192
  stepSpace := 15019
  restCount := 1
  addrBits := 16
  lenBits := 16
  frameCap := 100
  b91ValueBits := 32

/-- `WAVE_LUT` (42_dds.md R166): a total function of which nothing is assumed. The DDS uses its low `SAMPLE_BITS` bits.
Free value (log 4). -/
opaque Config.waveLut : Nat → Nat

/-- The values RESET leaves in the registers whose reset value is unspecified (46_system.md R240 b): the n-th draw.
Free value (log 6). -/
opaque Config.freeValue : Nat → Nat

/-- Which agent moves when both can and nothing given from outside says which (20_memory.md R70, 46_system.md R243):
true for the host, on the n-th draw. Free value (log 1). -/
opaque Config.freeTurn : Nat → Bool

end Sys2Proof
end

