-- ==== Sys2Proof/Syntax.lean ====
section
/-! DEFINITION. The operations of SWIFT-CORE: one constructor of `Instr` per row of spec/opcode_table.json, with the
operand kinds of 30_encoding.md R92 to R94. -/

namespace Sys2Proof

/-- The two address spaces (20_memory.md R60, R61). As an operand or a descriptor register it is the 1-bit addressing
mode: `data` is 0 ("ram"), `const` is 1 ("rom") (10_state.md R23). -/
inductive Space where
  | data
  | const
deriving DecidableEq, Repr

/-- The two agents (00_scope.md R8; column agent of 30_encoding.md R95). -/
inductive Agent where
  | host
  | tick
deriving DecidableEq, Repr

/-- A `call` operand (30_encoding.md R94): a length byte and six characters, those at or past the length ignored. -/
structure Call where
  n  : Byte
  c0 : Byte
  c1 : Byte
  c2 : Byte
  c3 : Byte
  c4 : Byte
  c5 : Byte
deriving DecidableEq, Repr

/-- The six characters of a `call` operand, in order. -/
def Call.chars (k : Call) : List Byte := [k.c0, k.c1, k.c2, k.c3, k.c4, k.c5]

/-- The operands of `FB.BUILD`, in the order of format `FFB` (30_encoding.md R93). -/
structure BuildArgs where
  dst    : Nat
  dcall  : Call
  dssid  : Byte
  scall  : Call
  sssid  : Byte
  p1     : Bool
  p1call : Call
  p1ttl  : Byte
  p2     : Bool
  p2call : Call
  p2ttl  : Byte
  pmode  : Space
  paddr  : Nat
  plen   : Nat
deriving DecidableEq, Repr

/-- The names of the operand fields (spec/opcode_table.json), as `Refuse.BadOperand` reports them (60_exceptions.md R255). -/
inductive Field where
  | on | mode | addr | len | b | value | width | dst
  | dcall | dssid | scall | sssid | p1 | p1call | p1ttl | p2 | p2call | p2ttl | pmode | paddr | plen
deriving DecidableEq, Repr

/-- The operations (30_encoding.md R95), one constructor per row of spec/opcode_table.json. -/
inductive Instr where
  /-- `RESET` (46_system.md R240). -/
  | reset
  /-- `TICK` (40_symbol_clock.md R133). -/
  | tick
  /-- `HOST.ST addr, b` (46_system.md R241). -/
  | hostSt (addr : Nat) (b : Byte)
  /-- `HOST.LD mode, addr` (46_system.md R242). -/
  | hostLd (mode : Space) (addr : Nat)
  /-- `STATUS` (46_system.md R245). -/
  | status
  /-- `RTTY.SUBMIT mode, addr, len` (41_rtty.md R142). -/
  | rttySubmit (mode : Space) (addr len : Nat)
  /-- `RTTY.ENABLE on` (41_rtty.md R143). -/
  | rttyEnable (on : Bool)
  /-- `RTTY.WAIT` (41_rtty.md R144). -/
  | rttyWait
  /-- `RTTY.IRQ on` (41_rtty.md R145). -/
  | rttyIrq (on : Bool)
  /-- `RTTY.TICK` (41_rtty.md R146). -/
  | rttyTick
  /-- `AFSK.SUBMIT mode, addr, len` (43_hdlc.md R171). -/
  | afskSubmit (mode : Space) (addr len : Nat)
  /-- `AFSK.WAIT` (43_hdlc.md R172). -/
  | afskWait
  /-- `AFSK.IRQ on` (43_hdlc.md R173). -/
  | afskIrq (on : Bool)
  /-- `AFSK.TICK` (43_hdlc.md R174). -/
  | afskTick
  /-- `CRC.INIT` (44_frame_builder.md R202). -/
  | crcInit
  /-- `CRC.BYTE b` (44_frame_builder.md R203). -/
  | crcByte (b : Byte)
  /-- `CRC.FCS` (44_frame_builder.md R204). -/
  | crcFcs
  /-- `FB.BUILD` (44_frame_builder.md R209). -/
  | fbBuild (args : BuildArgs)
  /-- `FB.LEN` (44_frame_builder.md R211). -/
  | fbLen
  /-- `B91.ENC value, width, dst` (45_base91.md R231). -/
  | b91Enc (value : Nat) (width : Byte) (dst : Nat)
deriving DecidableEq, Repr

/-- Which agent issues an operation (30_encoding.md R95, column agent). -/
def Instr.agent : Instr → Agent
  | .reset => .host
  | .tick => .tick
  | .hostSt _ _ => .host
  | .hostLd _ _ => .host
  | .status => .host
  | .rttySubmit _ _ _ => .host
  | .rttyEnable _ => .host
  | .rttyWait => .host
  | .rttyIrq _ => .host
  | .rttyTick => .tick
  | .afskSubmit _ _ _ => .host
  | .afskWait => .host
  | .afskIrq _ => .host
  | .afskTick => .tick
  | .crcInit => .host
  | .crcByte _ => .host
  | .crcFcs => .host
  | .fbBuild _ => .host
  | .fbLen => .host
  | .b91Enc _ _ _ => .host

end Sys2Proof
end

