-- ==== Sys2Proof/WellFormed.lean ====
section
/-! DEFINITION. Well-formed operations: every operand fits the width its kind has in the configuration
(30_encoding.md R92) and every `call` has a length of at most 6 (R94). Decoding answers only well-formed operations. The
range checks of 20_memory.md R77 are not here: a command that fails one is a command, and is refused when it runs. -/

namespace Sys2Proof

/-- A callsign length is at most 6 (30_encoding.md R94). -/
abbrev Call.WF (k : Call) : Prop := k.n.toNat ≤ 6

/-- An `addr` operand fits `ADDR_BITS` bits (30_encoding.md R92). -/
abbrev Config.addrOk (c : Config) (a : Nat) : Prop := a < 2 ^ c.addrBits

/-- A `len` operand fits `LEN_BITS` bits (30_encoding.md R92). -/
abbrev Config.lenOk (c : Config) (n : Nat) : Prop := n < 2 ^ c.lenBits

/-- A `value` operand fits `B91_VALUE_BITS` bits (30_encoding.md R92). -/
abbrev Config.valueOk (c : Config) (v : Nat) : Prop := v < 2 ^ c.b91ValueBits

/-- The operands of `FB.BUILD` fit their fields. -/
abbrev BuildArgs.WF (c : Config) (a : BuildArgs) : Prop :=
  c.addrOk a.dst ∧ a.dcall.WF ∧ a.scall.WF ∧ a.p1call.WF ∧ a.p2call.WF ∧ c.addrOk a.paddr ∧ c.lenOk a.plen

/-- The operands of an operation fit their fields. -/
def Instr.wf (c : Config) : Instr → Bool
  | .reset => true
  | .tick => true
  | .hostSt addr _ => decide (c.addrOk addr)
  | .hostLd _ addr => decide (c.addrOk addr)
  | .status => true
  | .rttySubmit _ addr len => decide (c.addrOk addr ∧ c.lenOk len)
  | .rttyEnable _ => true
  | .rttyWait => true
  | .rttyIrq _ => true
  | .rttyTick => true
  | .afskSubmit _ addr len => decide (c.addrOk addr ∧ c.lenOk len)
  | .afskWait => true
  | .afskIrq _ => true
  | .afskTick => true
  | .crcInit => true
  | .crcByte _ => true
  | .crcFcs => true
  | .fbBuild a => decide (a.WF c)
  | .fbLen => true
  | .b91Enc value _ dst => decide (c.valueOk value ∧ c.addrOk dst)

/-- The operation is well-formed in the configuration. -/
abbrev Instr.WF (c : Config) (i : Instr) : Prop := i.wf c = true

end Sys2Proof
end

