-- ==== Sys2Proof/Decode.lean ====
section
/-! DEFINITION. The command encoding of 30_encoding.md Part A: the decoder (total on any bytes, rejecting by name) and,
after it, the encoder. Widths are those of the configuration. -/

namespace Sys2Proof

/-- Why a command is not read. -/
inductive DecodeError where
  /-- The stream is empty: there is no command (not an error of the host's). -/
  | noCommand
  /-- The opcode byte selects no operation (30_encoding.md R96, 60_exceptions.md R251). -/
  | illegalOpcode (op : Byte)
  /-- A field has a non-zero pad bit, is a `call` with a length over 6, or is cut by the end of the stream
  (60_exceptions.md R252 a, b, d). -/
  | badOperand (op : Byte) (field : Field)
deriving DecidableEq, Repr

/-- `ceil(w / 8)`: the bytes a field of `w` bits occupies (30_encoding.md R92). -/
def fieldBytes (w : Nat) : Nat := (w + 7) / 8

/-- The value of a byte sequence, most significant byte first (30_encoding.md R92). -/
def ofBytesBE (bs : List Byte) : Nat := bs.foldl (fun acc b => acc * 256 + b.toNat) 0

/-- Reads a field of `w` bits: its bytes must be there and its pad bits 0 (30_encoding.md R92, R97). -/
def readNat (op : Byte) (f : Field) (w : Nat) (bs : List Byte) : Except DecodeError (Nat × List Byte) :=
  if bs.length < fieldBytes w then .error (.badOperand op f)
  else
    if ofBytesBE (bs.take (fieldBytes w)) < 2 ^ w then
      .ok (ofBytesBE (bs.take (fieldBytes w)), bs.drop (fieldBytes w))
    else .error (.badOperand op f)

/-- Reads a `byte`, `ssid` or `width` field: one byte (30_encoding.md R92). -/
def readByte (op : Byte) (f : Field) : List Byte → Except DecodeError (Byte × List Byte)
  | [] => .error (.badOperand op f)
  | b :: bs => .ok (b, bs)

/-- Reads an `on` field: one byte, 0 or 1 (30_encoding.md R92). -/
def readOn (op : Byte) (f : Field) (bs : List Byte) : Except DecodeError (Bool × List Byte) := do
  let (v, bs) ← readNat op f 1 bs
  return (v == 1, bs)

/-- Reads a `mode` field: one byte, 0 for DATA or 1 for CONST (30_encoding.md R92). -/
def readMode (op : Byte) (f : Field) (bs : List Byte) : Except DecodeError (Space × List Byte) := do
  let (v, bs) ← readNat op f 1 bs
  return (if v = 1 then .const else .data, bs)

/-- Reads a `call` field: seven bytes, the first at most 6 (30_encoding.md R94). -/
def readCall (op : Byte) (f : Field) : List Byte → Except DecodeError (Call × List Byte)
  | n :: c0 :: c1 :: c2 :: c3 :: c4 :: c5 :: bs =>
    if n.toNat ≤ 6 then .ok (⟨n, c0, c1, c2, c3, c4, c5⟩, bs) else .error (.badOperand op f)
  | _ => .error (.badOperand op f)

/-- Format `FON` (30_encoding.md R93). -/
def readFON (op : Byte) (mk : Bool → Instr) (bs : List Byte) : Except DecodeError (Instr × List Byte) := do
  let (on, bs) ← readOn op .on bs
  return (mk on, bs)

/-- Format `FSUB` (30_encoding.md R93). -/
def readFSUB (c : Config) (op : Byte) (mk : Space → Nat → Nat → Instr) (bs : List Byte) :
    Except DecodeError (Instr × List Byte) := do
  let (mode, bs) ← readMode op .mode bs
  let (addr, bs) ← readNat op .addr c.addrBits bs
  let (len, bs) ← readNat op .len c.lenBits bs
  return (mk mode addr len, bs)

/-- Format `FST` (30_encoding.md R93). -/
def readFST (c : Config) (op : Byte) (bs : List Byte) : Except DecodeError (Instr × List Byte) := do
  let (addr, bs) ← readNat op .addr c.addrBits bs
  let (b, bs) ← readByte op .b bs
  return (.hostSt addr b, bs)

/-- Format `FLD` (30_encoding.md R93). -/
def readFLD (c : Config) (op : Byte) (bs : List Byte) : Except DecodeError (Instr × List Byte) := do
  let (mode, bs) ← readMode op .mode bs
  let (addr, bs) ← readNat op .addr c.addrBits bs
  return (.hostLd mode addr, bs)

/-- Format `FB8` (30_encoding.md R93). -/
def readFB8 (op : Byte) (bs : List Byte) : Except DecodeError (Instr × List Byte) := do
  let (b, bs) ← readByte op .b bs
  return (.crcByte b, bs)

/-- Format `FB91` (30_encoding.md R93). -/
def readFB91 (c : Config) (op : Byte) (bs : List Byte) : Except DecodeError (Instr × List Byte) := do
  let (value, bs) ← readNat op .value c.b91ValueBits bs
  let (width, bs) ← readByte op .width bs
  let (dst, bs) ← readNat op .dst c.addrBits bs
  return (.b91Enc value width dst, bs)

/-- Format `FFB` (30_encoding.md R93), the fields in order. -/
def readFFB (c : Config) (op : Byte) (bs : List Byte) : Except DecodeError (Instr × List Byte) := do
  let (dst, bs) ← readNat op .dst c.addrBits bs
  let (dcall, bs) ← readCall op .dcall bs
  let (dssid, bs) ← readByte op .dssid bs
  let (scall, bs) ← readCall op .scall bs
  let (sssid, bs) ← readByte op .sssid bs
  let (p1, bs) ← readOn op .p1 bs
  let (p1call, bs) ← readCall op .p1call bs
  let (p1ttl, bs) ← readByte op .p1ttl bs
  let (p2, bs) ← readOn op .p2 bs
  let (p2call, bs) ← readCall op .p2call bs
  let (p2ttl, bs) ← readByte op .p2ttl bs
  let (pmode, bs) ← readMode op .pmode bs
  let (paddr, bs) ← readNat op .paddr c.addrBits bs
  let (plen, bs) ← readNat op .plen c.lenBits bs
  return (.fbBuild ⟨dst, dcall, dssid, scall, sssid, p1, p1call, p1ttl, p2, p2call, p2ttl, pmode, paddr, plen⟩, bs)

/-- Reads the operation an opcode byte and the bytes after it stand for (30_encoding.md R91, R95 to R97): the exact opcode
byte selects the format, and every byte outside the map is illegal. -/
def decodeCommand (c : Config) (op : Byte) (bs : List Byte) : Except DecodeError (Instr × List Byte) :=
  match op.toNat with
  | 0x01 => .ok (.reset, bs)
  | 0x02 => .ok (.tick, bs)
  | 0x03 => readFST c op bs
  | 0x04 => readFLD c op bs
  | 0x05 => .ok (.status, bs)
  | 0x10 => readFSUB c op .rttySubmit bs
  | 0x11 => readFON op .rttyEnable bs
  | 0x12 => .ok (.rttyWait, bs)
  | 0x13 => readFON op .rttyIrq bs
  | 0x14 => .ok (.rttyTick, bs)
  | 0x20 => readFSUB c op .afskSubmit bs
  | 0x22 => .ok (.afskWait, bs)
  | 0x23 => readFON op .afskIrq bs
  | 0x24 => .ok (.afskTick, bs)
  | 0x30 => .ok (.crcInit, bs)
  | 0x31 => readFB8 op bs
  | 0x32 => .ok (.crcFcs, bs)
  | 0x38 => readFFB c op bs
  | 0x39 => .ok (.fbLen, bs)
  | 0x40 => readFB91 c op bs
  | _ => .error (.illegalOpcode op)

/-- Decodes the command at the head of a byte sequence, of whichever agent; answers it with the bytes after it. -/
def decode (c : Config) : List Byte → Except DecodeError (Instr × List Byte)
  | [] => .error .noCommand
  | op :: bs => decodeCommand c op bs

/-- The opcode byte of an operation (30_encoding.md R95). -/
def opcodeOf : Instr → Byte
  | .reset => 0x01#8
  | .tick => 0x02#8
  | .hostSt _ _ => 0x03#8
  | .hostLd _ _ => 0x04#8
  | .status => 0x05#8
  | .rttySubmit _ _ _ => 0x10#8
  | .rttyEnable _ => 0x11#8
  | .rttyWait => 0x12#8
  | .rttyIrq _ => 0x13#8
  | .rttyTick => 0x14#8
  | .afskSubmit _ _ _ => 0x20#8
  | .afskWait => 0x22#8
  | .afskIrq _ => 0x23#8
  | .afskTick => 0x24#8
  | .crcInit => 0x30#8
  | .crcByte _ => 0x31#8
  | .crcFcs => 0x32#8
  | .fbBuild _ => 0x38#8
  | .fbLen => 0x39#8
  | .b91Enc _ _ _ => 0x40#8

/-- The host's command decoder (60_exceptions.md R251): a tick-agent opcode in the host stream is illegal
(30_encoding.md R95). -/
def decodeHost (c : Config) (bs : List Byte) : Except DecodeError (Instr × List Byte) :=
  match decode c bs with
  | .ok (i, rest) =>
    match i.agent with
    | .host => .ok (i, rest)
    | .tick => .error (.illegalOpcode (opcodeOf i))
  | .error e => .error e

/-- The event a tick-agent opcode byte names: `TICK`, or one of its two halves, which are steps only inside a `TICK`
(30_encoding.md R95). -/
def decodeEvent (c : Config) (op : Byte) : Option Instr :=
  match decode c [op] with
  | .ok (i, _) =>
    match i.agent with
    | .host => none
    | .tick => some i
  | .error _ => none

/-- The number of bytes of the command an opcode byte begins (30_encoding.md R93, R97); `none` for an illegal opcode. -/
def commandBytes (c : Config) (op : Byte) : Option Nat :=
  match op.toNat with
  | 0x01 | 0x02 | 0x05 | 0x12 | 0x14 | 0x22 | 0x24 | 0x30 | 0x32 | 0x39 => some 1
  | 0x11 | 0x13 | 0x23 | 0x31 => some 2
  | 0x03 => some (2 + fieldBytes c.addrBits)
  | 0x04 => some (2 + fieldBytes c.addrBits)
  | 0x10 | 0x20 => some (2 + fieldBytes c.addrBits + fieldBytes c.lenBits)
  | 0x38 => some (36 + 2 * fieldBytes c.addrBits + fieldBytes c.lenBits)
  | 0x40 => some (2 + fieldBytes c.b91ValueBits + fieldBytes c.addrBits)
  | _ => none

/-! ### The encoder -/

/-- The `k` bytes of `v`, most significant byte first (30_encoding.md R92). -/
def toBytesBE : Nat → Nat → List Byte
  | 0, _ => []
  | k + 1, v => toBytesBE k (v / 256) ++ [BitVec.ofNat 8 v]

/-- A field of `w` bits (30_encoding.md R92). -/
def writeNat (w v : Nat) : List Byte := toBytesBE (fieldBytes w) v

/-- An `on` field (30_encoding.md R92). -/
def writeOn (on : Bool) : List Byte := [if on then 1#8 else 0#8]

/-- A `mode` field (30_encoding.md R92). -/
def writeMode : Space → List Byte
  | .data => [0#8]
  | .const => [1#8]

/-- A `call` field (30_encoding.md R94). -/
def writeCall (k : Call) : List Byte := [k.n, k.c0, k.c1, k.c2, k.c3, k.c4, k.c5]

/-- The operand bytes of an operation, in format order (30_encoding.md R93). -/
def operandBytes (c : Config) : Instr → List Byte
  | .hostSt addr b => writeNat c.addrBits addr ++ [b]
  | .hostLd mode addr => writeMode mode ++ writeNat c.addrBits addr
  | .rttySubmit mode addr len => writeMode mode ++ writeNat c.addrBits addr ++ writeNat c.lenBits len
  | .rttyEnable on => writeOn on
  | .rttyIrq on => writeOn on
  | .afskSubmit mode addr len => writeMode mode ++ writeNat c.addrBits addr ++ writeNat c.lenBits len
  | .afskIrq on => writeOn on
  | .crcByte b => [b]
  | .fbBuild a =>
    writeNat c.addrBits a.dst ++ writeCall a.dcall ++ [a.dssid] ++ writeCall a.scall ++ [a.sssid] ++
    writeOn a.p1 ++ writeCall a.p1call ++ [a.p1ttl] ++ writeOn a.p2 ++ writeCall a.p2call ++ [a.p2ttl] ++
    writeMode a.pmode ++ writeNat c.addrBits a.paddr ++ writeNat c.lenBits a.plen
  | .b91Enc value width dst => writeNat c.b91ValueBits value ++ [width] ++ writeNat c.addrBits dst
  | .reset => []
  | .tick => []
  | .status => []
  | .rttyWait => []
  | .rttyTick => []
  | .afskWait => []
  | .afskTick => []
  | .crcInit => []
  | .crcFcs => []
  | .fbLen => []

/-- The bytes of a command (30_encoding.md R90): the opcode byte, then the operand fields. -/
def encode (c : Config) (i : Instr) : List Byte := opcodeOf i :: operandBytes c i

/-- `HOST.FILL addr, b0, b1, ..` (30_encoding.md R100). `HOST.FILLS` is this with the codes of the characters. -/
def hostFill (addr : Nat) : List Byte → List Instr
  | [] => []
  | b :: bs => .hostSt addr b :: hostFill (addr + 1) bs

/-- `TICKS n` (30_encoding.md R100). -/
def ticks (n : Nat) : List Instr := List.replicate n .tick

/-- The bytes of a table word: byte `k` is bits `8k+7..8k` of `w`, `n` bytes, every bit above `nbits` zero. -/
def wordBytes (nbits w n : Nat) : List Byte :=
  (List.range n).map fun k => BitVec.ofNat 8 ((w % 2 ^ nbits) / 2 ^ (8 * k))

/-- The instruction the decoder reads, in `CFG_REF`, from an instruction whose bits are `w` (the first byte in bits 7..0),
every bit above `nbits` zero, up to the longest command (42 bytes). -/
def decodeTableWord (nbits w : Nat) : Option Instr :=
  match decode Config.ref (wordBytes nbits w 42) with
  | .ok (i, _) => some i
  | .error _ => none

end Sys2Proof
end

