-- ==== Sys2Proof/Machine/Memory.lean ====
section
/-! DEFINITION. A memory space as plain data: the (address, byte) pairs of the bytes that differ from what an unlisted
address reads as, addresses strictly rising (20_memory.md R60, R61). -/

namespace Sys2Proof.Machine

/-- A memory space: pairs of an address and its byte, in the canonical form `Mem.wf`. -/
abbrev Mem := List Host.Cell

/-- What an unlisted address reads as. The spec leaves the content at power-on open (20_memory.md R60, 70_reset_and_hazards.md
R282). DESIGN CHOICE, unsafe (log 7). -/
def Mem.unlisted : Byte := 0#8

/-- The byte at an address. -/
def Mem.read : Mem → Nat → Byte
  | [], _ => Mem.unlisted
  | (k, v) :: m, a => if a = k then v else Mem.read m a

/-- Puts an entry in front, unless it is what an unlisted address reads as. -/
def Mem.put (a : Nat) (b : Byte) (m : Mem) : Mem := if b = Mem.unlisted then m else (a, b) :: m

/-- The memory with the byte at an address replaced, in canonical form. -/
def Mem.write : Mem → Nat → Byte → Mem
  | [], a, b => Mem.put a b []
  | (k, v) :: m, a, b =>
    if a < k then Mem.put a b ((k, v) :: m)
    else if a = k then Mem.put a b m
    else (k, v) :: Mem.write m a b

/-- Every entry lies at or above `lo`, addresses rise strictly, and no entry is what an unlisted address reads as. -/
def Mem.wfFrom (lo : Nat) : Mem → Bool
  | [] => true
  | (k, v) :: m => decide (lo ≤ k) && decide (v ≠ Mem.unlisted) && Mem.wfFrom (k + 1) m

/-- The canonical form: equal memories are equal lists. -/
def Mem.wf (m : Mem) : Bool := Mem.wfFrom 0 m

/-- Every listed address lies in the space (20_memory.md R60, R61). -/
def Mem.inSpace (size : Nat) (m : Mem) : Bool := m.all fun cell => decide (cell.1 < size)

end Sys2Proof.Machine
end

