-- ==== Sys2Proof/Machine/State.lean ====
section
/-! DEFINITION. The state of SWIFT-CORE as plain data: the 26 registers of 10_state.md, the two memory spaces, the launch
parameters, and the model's own fields for the two agents; the reasons a step can stop; and the state after reset. -/

namespace Sys2Proof.Machine

/-- Why the machine stops with a fault. -/
inductive Fault where
  /-- `Fault.MemRange(space, addr)` (60_exceptions.md R254): raised by a memory primitive at an address at or above
  `2 ^ ADDR_BITS`. The spec's own fault. Safe: no run from reset reaches it. -/
  | memRange (space : Space) (addr : Nat)
deriving DecidableEq, Repr

/-- Why the machine refuses a command. The first three are the spec's own refusals (60_exceptions.md R255). -/
inductive Refusal where
  /-- `Refuse.IllegalOpcode(op)` (R251): raised by the host's decoder on an opcode outside the map, or on a tick-agent
  opcode in the host stream. Safe: the spec refuses it and claims nothing after it. -/
  | illegalOpcode (op : Byte)
  /-- `Refuse.BadOperand(op, field)` (R252): raised by the decoder on a bad field, and by an operation whose memory range
  leaves the space. Safe: the spec refuses it. -/
  | badOperand (op : Byte) (field : Field)
  /-- `Refuse.OwnedBufferWrite(addr)` (R253): raised by HOST.ST, FB.BUILD and B91.ENC, with the lowest violating address.
  Safe: the spec refuses it. -/
  | ownedBufferWrite (addr : Nat)
  /-- An operation without a meaning; raised by no arm of `exec`. Safe. -/
  | notModelled (mnemonic : String)
deriving DecidableEq, Repr

/-- Who takes a step (00_scope.md R8, 20_memory.md R70): the host, or the tick agent, whose only operation is `TICK`. -/
inductive Turn where
  | host
  | tick
deriving DecidableEq, Repr

/-- The state. Registers of a fixed width are bit vectors; a 1-bit register is a `Bool` (`true` is 1) or, for an addressing
mode, a `Space`; registers of a parameter width are natural numbers (log 12). -/
structure State where
  /-- `rtty_ptr` (10_state.md R21). -/
  rttyPtr : Nat
  /-- `rtty_len` (R22): bytes not yet fetched; not 0 is *RTTY busy*. -/
  rttyLen : Nat
  /-- `rtty_mode` (R23). -/
  rttyMode : Space
  /-- `rtty_clk` (R27). -/
  rttyClk : Nat
  /-- `rtty_bit` (R28): 0 START, 1 to 8 DATA0 to DATA7, 9 STOP. -/
  rttyBit : BitVec 4
  /-- `rtty_sr` (R29). -/
  rttySr : Byte
  /-- `rtty_line` (R30): true is mark. -/
  rttyLine : Bool
  /-- `rtty_txen` (R31). -/
  rttyTxen : Bool
  /-- `rtty_ie` (R32). -/
  rttyIe : Bool
  /-- `afsk_ptr` (R24). -/
  afskPtr : Nat
  /-- `afsk_len` (R25): not 0 is *AFSK busy*. -/
  afskLen : Nat
  /-- `afsk_mode` (R26). -/
  afskMode : Space
  /-- `afsk_clk` (R33). -/
  afskClk : Nat
  /-- `dds_phase` (R34). -/
  ddsPhase : Nat
  /-- `dds_tone` (R35): false is mark, true is space. -/
  ddsTone : Bool
  /-- `afsk_sample` (R36). -/
  afskSample : Nat
  /-- `hdlc_sr` (R37). -/
  hdlcSr : Byte
  /-- `hdlc_bit` (R38). -/
  hdlcBit : BitVec 3
  /-- `hdlc_ones` (R39). -/
  hdlcOnes : BitVec 3
  /-- `hdlc_stuff` (R40). -/
  hdlcStuff : Bool
  /-- `hdlc_rest` (R41). -/
  hdlcRest : BitVec 8
  /-- `afsk_txen` (R42). -/
  afskTxen : Bool
  /-- `afsk_ie` (R43). -/
  afskIe : Bool
  /-- `crc` (R44). -/
  crc : Word16
  /-- `fb_len` (R45). -/
  fbLen : Nat
  /-- `fb_trunc` (R46). -/
  fbTrunc : Bool
  /-- DATA (20_memory.md R60). -/
  dataMem : Mem
  /-- CONST (20_memory.md R61): a launch parameter, written by no operation. -/
  constMem : Mem
  /-- The configuration (00_scope.md R6): a launch parameter, written by no operation (log 3). -/
  cfg : Config
  /-- The model's own: the host's command stream not yet executed (30_encoding.md R90; log 2). -/
  hostIn : List Byte
  /-- The model's own: the result bytes returned to the host, oldest first (30_encoding.md R98; log 9). -/
  hostOut : List Byte
  /-- The model's own: the host's pending operation is not enabled and holds (60_exceptions.md R256; log 8). -/
  hostHeld : Bool
  /-- The model's own: the turns that come next, where they are given from outside (20_memory.md R70; log 1). -/
  sched : List Turn
  /-- The model's own: how many free values have been drawn (log 6). -/
  freeIdx : Nat
deriving DecidableEq, Repr

/-- The machine right after power-on in a configuration, with a given content of CONST and of DATA
(70_reset_and_hazards.md R281, R282). The registers the spec leaves unspecified are 0: DESIGN CHOICE, unsafe (log 5). -/
def State.powerOn (c : Config) (constMem dataMem : Mem) : State where
  rttyPtr := 0
  rttyLen := 0
  rttyMode := .data
  rttyClk := 0
  rttyBit := 0#4
  rttySr := 0#8
  rttyLine := true
  rttyTxen := false
  rttyIe := false
  afskPtr := 0
  afskLen := 0
  afskMode := .data
  afskClk := 0
  ddsPhase := 0
  ddsTone := false
  afskSample := 0
  hdlcSr := 0#8
  hdlcBit := 7#3
  hdlcOnes := 0#3
  hdlcStuff := false
  hdlcRest := BitVec.ofNat 8 c.restIdle
  afskTxen := false
  afskIe := false
  crc := Config.crcInit
  fbLen := 0
  fbTrunc := false
  dataMem := dataMem
  constMem := constMem
  cfg := c
  hostIn := []
  hostOut := []
  hostHeld := false
  sched := []
  freeIdx := 0

/-- The machine right after power-on in `CFG_REF`, nothing listed in either memory space (logs 3, 5, 7). -/
def State.reset : State := State.powerOn Config.ref [] []

end Sys2Proof.Machine
end

