-- ==== Sys2Proof/Machine/Ops.lean ====
section
/-! DEFINITION. The named operations every meaning is written over: sequencing of results, the memory primitives
(20_memory.md R63 to R66), the ownership check (R74), the hold (60_exceptions.md R256), and returning a result
(30_encoding.md R98). The block has no exception entry and no return from one (60_exceptions.md R250, R264). -/

namespace Sys2Proof.Machine

/-- The result of a part of a step: a value, a fault or a refusal. -/
abbrev Res (α : Type) := Host.Outcome α Fault Refusal

/-- Goes on with the value, or stops with the reason. -/
def Res.andThen {α β : Type} (r : Res α) (f : α → Res β) : Res β :=
  match r with
  | .next a => f a
  | .fault e => .fault e
  | .refused e => .refused e

/-- The contents of a space. -/
def spaceMem (s : State) : Space → Mem
  | .data => s.dataMem
  | .const => s.constMem

/-- `MemRead(space, addr, 1)` (20_memory.md R63). -/
def memRead (s : State) (sp : Space) (addr : Nat) : Res Byte :=
  if addr < s.cfg.spaceSize then .next (Mem.read (spaceMem s sp) addr) else .fault (.memRange sp addr)

/-- `MemWrite(DATA, addr, 1, v)` (20_memory.md R64). -/
def memWrite (s : State) (addr : Nat) (v : Byte) : Res State :=
  if addr < s.cfg.spaceSize then .next { s with dataMem := Mem.write s.dataMem addr v }
  else .fault (.memRange .data addr)

/-- `Fetch(mode, addr)` (20_memory.md R65). -/
def fetch (s : State) (mode : Space) (addr : Nat) : Res Byte := memRead s mode addr

/-- `[Fetch(mode, addr + j) for j in 0 .. n-1]`. -/
def fetchBytes (s : State) (mode : Space) (addr : Nat) : Nat → Res (List Byte)
  | 0 => .next []
  | n + 1 => (fetch s mode addr).andThen fun b => (fetchBytes s mode (addr + 1) n).andThen fun bs => .next (b :: bs)

/-- `MemWrite(DATA, addr + j, 1, bs[j])` for each `j` in order. -/
def memWriteBytes (s : State) (addr : Nat) : List Byte → Res State
  | [] => .next s
  | b :: bs => (memWrite s addr b).andThen fun s => memWriteBytes s (addr + 1) bs

/-- `addr` lies in the part of a descriptor's DATA buffer not yet fetched (46_system.md R241, 60_exceptions.md R253). -/
def descriptorOwns (mode : Space) (ptr len addr : Nat) : Bool :=
  decide (mode = .data) && decide (len ≠ 0) && decide (ptr ≤ addr) && decide (addr < ptr + len)

/-- `addr` is owned by a busy transmitter and not yet fetched (20_memory.md R74). -/
def owned (s : State) (addr : Nat) : Bool :=
  descriptorOwns s.rttyMode s.rttyPtr s.rttyLen addr || descriptorOwns s.afskMode s.afskPtr s.afskLen addr

/-- The lowest owned address of `[addr, addr + n)` (60_exceptions.md R255: "the lowest violating DATA address"). -/
def firstOwned (s : State) (addr : Nat) : Nat → Option Nat
  | 0 => none
  | n + 1 => if owned s addr then some addr else firstOwned s (addr + 1) n

/-- Refuses a write of `n` bytes at `addr` that touches an owned byte, before any write (60_exceptions.md R253). -/
def refuseOwned (s : State) (addr n : Nat) (k : Res State) : Res State :=
  match firstOwned s addr n with
  | some a => .refused (.ownedBufferWrite a)
  | none => k

/-- The checked write of a whole range: ownership first, then every byte (60_exceptions.md R253, R259). -/
def writeRange (s : State) (addr : Nat) (bs : List Byte) : Res State :=
  refuseOwned s addr bs.length (memWriteBytes s addr bs)

/-- `hold` (00_scope.md R10, 60_exceptions.md R256): the operation is not enabled; the host has no step. Nothing of the
machine changes; the model notes that the host holds (log 8). -/
def hold (s : State) : Res State := .next { s with hostHeld := true }

/-- Returns result bytes to the host (30_encoding.md R98); no register and no memory byte changes (log 9). -/
def respond (s : State) (bs : List Byte) : State := { s with hostOut := s.hostOut ++ bs }

/-- The free value of the k-th draw from now on, of `w` bits (log 6). -/
def freeBits (s : State) (k w : Nat) : Nat := trunc w (Config.freeValue (s.freeIdx + k))

/-- A free addressing mode: the low bit of a draw (log 6). -/
def freeMode (s : State) (k : Nat) : Space := if freeBits s k 1 = 1 then .const else .data

/-- Every register at its reset value (70_reset_and_hazards.md R281), memory, configuration and command stream untouched
(46_system.md R240). The seven unspecified registers take free values (R240 b; log 6). -/
def resetRegisters (s : State) : State :=
  { s with
    rttyPtr := freeBits s 0 s.cfg.addrBits
    rttyLen := 0
    rttyMode := freeMode s 1
    rttyClk := 0
    rttyBit := 0#4
    rttySr := BitVec.ofNat 8 (freeBits s 2 8)
    rttyLine := true
    rttyTxen := false
    rttyIe := false
    afskPtr := freeBits s 3 s.cfg.addrBits
    afskLen := 0
    afskMode := freeMode s 4
    afskClk := 0
    ddsPhase := 0
    ddsTone := false
    afskSample := freeBits s 5 s.cfg.sampleBits
    hdlcSr := BitVec.ofNat 8 (freeBits s 6 8)
    hdlcBit := 7#3
    hdlcOnes := 0#3
    hdlcStuff := false
    hdlcRest := BitVec.ofNat 8 s.cfg.restIdle
    afskTxen := false
    afskIe := false
    crc := Config.crcInit
    fbLen := 0
    fbTrunc := false
    freeIdx := s.freeIdx + 7 }

end Sys2Proof.Machine
end

