-- ==== Sys2Proof/Machine/Operands.lean ====
section
/-! DEFINITION. The operand forms and their checks: memory ranges (20_memory.md R77), callsigns (30_encoding.md R94), and
the two pointer forms, absolute and post-increment (46_system.md R248). -/

namespace Sys2Proof.Machine

/-- The range `[addr, addr + n)` lies in the space: computed without wrap, equality allowed (20_memory.md R77,
46_system.md R246). -/
abbrev rangeOk (c : Config) (addr n : Nat) : Prop := addr + n ≤ c.spaceSize

/-- Refuses a range that leaves the space (60_exceptions.md R252 c). -/
def requireRange (c : Config) (op : Byte) (f : Field) (addr n : Nat) (k : Res State) : Res State :=
  if rangeOk c addr n then k else .refused (.badOperand op f)

/-- Refuses a callsign longer than six characters (30_encoding.md R94). -/
def requireCall (op : Byte) (f : Field) (call : Call) (k : Res State) : Res State :=
  if call.n.toNat ≤ 6 then k else .refused (.badOperand op f)

/-- `ptr <- trunc_ADDR_BITS(ptr + 1)` (20_memory.md R66). -/
def nextPtr (c : Config) (ptr : Nat) : Nat := trunc c.addrBits (ptr + 1)

end Sys2Proof.Machine
end

