-- ==== Sys2Proof/Machine/Base91.lean ====
section
/-! DEFINITION. The Base-91 encoder (45_base91.md): `B91.ENC`. -/

namespace Sys2Proof.Machine

/-- A digit's byte (30_encoding.md R114). -/
def b91Digit (d : Nat) : Byte := BitVec.ofNat 8 (d + Config.b91Offset)

/-- `B91(v, w)` (45_base91.md R230): `w` digits, most significant first, filled from the right. -/
def b91 : Nat → Nat → List Byte
  | _, 0 => []
  | v, w + 1 => b91 (v / Config.b91Radix) w ++ [b91Digit (v % Config.b91Radix)]

/-- `Dec(s)` (45_base91.md R232): the value of a digit string; not an operation of the block. -/
def b91Decode (bs : List Byte) : Nat :=
  bs.foldl (fun acc b => acc * Config.b91Radix + (b.toNat - Config.b91Offset)) 0

/-- `B91.ENC value, width, dst` (45_base91.md R231). -/
def execB91Enc (value : Nat) (width : Byte) (dst : Nat) (s : State) : Res State :=
  requireRange s.cfg 0x40#8 .dst dst width.toNat (writeRange s dst (b91 value width.toNat))

end Sys2Proof.Machine
end

