-- ==== Sys2Proof/Machine/Crc.lean ====
section
/-! DEFINITION. The CRC-16/CCITT unit (44_frame_builder.md section 1): `CRC.INIT`, `CRC.BYTE`, `CRC.FCS`. -/

namespace Sys2Proof.Machine

/-- One round of the reflected CRC (44_frame_builder.md R201). -/
def crcRound (c : Word16) : Word16 := if c.getLsbD 0 then (c >>> (1 : Nat)) ^^^ Config.crcPoly else c >>> (1 : Nat)

/-- `n` rounds. -/
def crcRounds : Nat → Word16 → Word16
  | 0, c => c
  | n + 1, c => crcRounds n (crcRound c)

/-- `CrcUpdate(c, b)` (44_frame_builder.md R201). -/
def crcUpdate (c : Word16) (b : Byte) : Word16 := crcRounds 8 (c ^^^ b.setWidth 16)

/-- The left fold of `CrcUpdate` from a given value. -/
def crcFold (c : Word16) (bs : List Byte) : Word16 := bs.foldl crcUpdate c

/-- `CrcBytes(B)` (44_frame_builder.md R201). -/
def crcBytes (bs : List Byte) : Word16 := crcFold Config.crcInit bs

/-- The two CRC bytes of an accumulator (44_frame_builder.md R204, 30_encoding.md R113): complemented, low byte first. -/
def fcsBytes (c : Word16) : List Byte := [~~~(c.setWidth 8), ~~~((c >>> (8 : Nat)).setWidth 8)]

/-- `CRC.INIT` (44_frame_builder.md R202). -/
def execCrcInit (s : State) : Res State := .next { s with crc := Config.crcInit }

/-- `CRC.BYTE b` (44_frame_builder.md R203). -/
def execCrcByte (b : Byte) (s : State) : Res State := .next { s with crc := crcUpdate s.crc b }

/-- `CRC.FCS` (44_frame_builder.md R204). -/
def execCrcFcs (s : State) : Res State := .next (respond s (fcsBytes s.crc))

end Sys2Proof.Machine
end

