-- ==== Sys2Proof/Machine/FrameBuilder.lean ====
section
/-! DEFINITION. The AX.25 frame builder (44_frame_builder.md section 2): `FB.BUILD`, `FB.LEN`. -/

namespace Sys2Proof.Machine

/-- The callsign's six places: its characters at the left, spaces at the right (44_frame_builder.md R207). -/
def paddedCall (k : Call) : List Byte :=
  k.chars.take k.n.toNat ++ List.replicate (Config.callLen - k.n.toNat) 0x20#8

/-- `AddrField(call, ssid, last)` (44_frame_builder.md R207): seven bytes, each shifted left by one; bit 0 of the last marks
the end of the address list. -/
def addrField (k : Call) (ssid : Byte) (last : Bool) : List Byte :=
  (paddedCall k).map (fun ch : Byte => ch <<< (1 : Nat)) ++ [((0x30#8 + ssid) <<< (1 : Nat)) ||| (if last then 0x01#8 else 0x00#8)]

/-- The header `H` of `Frame` (44_frame_builder.md R208): the address fields present, control and PID. -/
def frameHeader (a : BuildArgs) : List Byte :=
  addrField a.dcall a.dssid false ++
  addrField a.scall a.sssid (!a.p1 && !a.p2) ++
  (if a.p1 then addrField a.p1call a.p1ttl (!a.p2) else []) ++
  (if a.p2 then addrField a.p2call a.p2ttl true else []) ++
  [Config.ctrlUi, Config.pidNoL3]

/-- The bytes left for the payload, the two CRC bytes reserved (44_frame_builder.md R208). -/
def frameRoom (c : Config) (a : BuildArgs) : Nat := c.frameCap - (frameHeader a).length - 2

/-- The frame before its CRC: header and payload, the payload cut to the room (44_frame_builder.md R208). -/
def frameBody (c : Config) (a : BuildArgs) (payload : List Byte) : List Byte :=
  frameHeader a ++ payload.take (frameRoom c a)

/-- The CRC of the frame (44_frame_builder.md R208). -/
def frameCrc (c : Config) (a : BuildArgs) (payload : List Byte) : Word16 := crcBytes (frameBody c a payload)

/-- The frame `F` (44_frame_builder.md R208). -/
def frameBytes (c : Config) (a : BuildArgs) (payload : List Byte) : List Byte :=
  frameBody c a payload ++ fcsBytes (frameCrc c a payload)

/-- The payload did not fit (44_frame_builder.md R208). -/
def frameTrunc (c : Config) (a : BuildArgs) (payload : List Byte) : Bool := decide (frameRoom c a < payload.length)

/-- `FB.BUILD` once its operands are admitted (44_frame_builder.md R209): all reads, then the ownership check, then the
writes and the three registers. -/
def buildFrame (a : BuildArgs) (s : State) : Res State :=
  (fetchBytes s a.pmode a.paddr a.plen).andThen fun payload =>
    (writeRange s a.dst (frameBytes s.cfg a payload)).andThen fun t =>
      .next { t with
        crc := frameCrc s.cfg a payload
        fbLen := (frameBytes s.cfg a payload).length
        fbTrunc := frameTrunc s.cfg a payload }

/-- `FB.BUILD` (44_frame_builder.md R209): callsign lengths in format order, then the ranges `dst` and `paddr`
(60_exceptions.md R259), then the build. -/
def execFbBuild (a : BuildArgs) (s : State) : Res State :=
  requireCall 0x38#8 .dcall a.dcall <|
  requireCall 0x38#8 .scall a.scall <|
  requireCall 0x38#8 .p1call a.p1call <|
  requireCall 0x38#8 .p2call a.p2call <|
  requireRange s.cfg 0x38#8 .dst a.dst s.cfg.frameCap <|
  requireRange s.cfg 0x38#8 .paddr a.paddr a.plen <|
  buildFrame a s

/-- `FB.LEN` (44_frame_builder.md R211): `fb_len` as `ceil(LEN_BITS / 8)` bytes, most significant first. -/
def execFbLen (s : State) : Res State := .next (respond s (toBytesBE (fieldBytes s.cfg.lenBits) s.fbLen))

end Sys2Proof.Machine
end

