-- ==== Sys2Proof/Machine/Flags.lean ====
section
/-! DEFINITION. The flag-like conditions (10_state.md R50): busy, the STATUS word (R47) and the output ports (R48). The
block has no carry, zero, sign or overflow flag. -/

namespace Sys2Proof.Machine

/-- *RTTY busy* (10_state.md R22). -/
def rttyBusy (s : State) : Bool := decide (s.rttyLen ≠ 0)

/-- *AFSK busy* (10_state.md R25). -/
def afskBusy (s : State) : Bool := decide (s.afskLen ≠ 0)

/-- A bit of a status word, in place. -/
def statusBit (on : Bool) (place : Nat) : Byte := if on then 1#8 <<< place else 0#8

/-- The `STATUS` word (10_state.md R47, 46_system.md R245); bit 7 reads 0. -/
def statusWord (s : State) : Byte :=
  statusBit (rttyBusy s) 0 ||| statusBit (afskBusy s) 1 ||| statusBit s.rttyTxen 2 ||| statusBit s.afskTxen 3 |||
  statusBit s.rttyIe 4 ||| statusBit s.afskIe 5 ||| statusBit s.fbTrunc 6

/-- The output ports (10_state.md R48): each a copy of a register at every instant (log 19). -/
structure Ports where
  rttyLine   : Bool
  rttyTxen   : Bool
  afskSample : Nat
  afskTxen   : Bool
deriving DecidableEq, Repr

/-- What the block drives. -/
def portsOf (s : State) : Ports := ⟨s.rttyLine, s.rttyTxen, s.afskSample, s.afskTxen⟩

end Sys2Proof.Machine
end

