-- ==== Sys2Proof/Machine/System.lean ====
section
/-! DEFINITION. The system operations (46_system.md): `RESET`, `HOST.ST`, `HOST.LD`, `STATUS`. -/

namespace Sys2Proof.Machine

/-- `RESET` (46_system.md R240). -/
def execReset (s : State) : Res State := .next (resetRegisters s)

/-- `HOST.ST addr, b` (46_system.md R241). -/
def execHostSt (addr : Nat) (b : Byte) (s : State) : Res State := refuseOwned s addr 1 (memWrite s addr b)

/-- `HOST.LD mode, addr` (46_system.md R242). -/
def execHostLd (mode : Space) (addr : Nat) (s : State) : Res State :=
  (fetch s mode addr).andThen fun b => .next (respond s [b])

/-- `STATUS` (46_system.md R245). -/
def execStatus (s : State) : Res State := .next (respond s [statusWord s])

end Sys2Proof.Machine
end

