-- ==== Sys2Proof/Machine/Dds.lean ====
section
/-! DEFINITION. The DDS tone generator (42_dds.md): the first part of `AFSK.TICK`. -/

namespace Sys2Proof.Machine

/-- The table index: the high `LUT_BITS` bits of the phase (42_dds.md R161, 30_encoding.md R115). -/
def ddsIndex (c : Config) (phase : Nat) : Nat := trunc c.lutBits (phase / 2 ^ (c.phaseBits - c.lutBits))

/-- `WAVE_LUT[idx]`, `SAMPLE_BITS` bits (42_dds.md R166; log 4). -/
def waveSample (c : Config) (idx : Nat) : Nat := trunc c.sampleBits (Config.waveLut idx)

/-- The phase step the tone selects (42_dds.md R161). -/
def ddsIncrement (c : Config) (tone : Bool) : Nat := if tone then c.stepSpace else c.stepMark

/-- `DdsStep` (42_dds.md R161): the sample from the phase before the advance, then the advance by the current tone's step,
modulo `2 ^ PHASE_BITS`. -/
def ddsStep (s : State) : State :=
  { s with
    afskSample := waveSample s.cfg (ddsIndex s.cfg s.ddsPhase)
    ddsPhase := trunc s.cfg.phaseBits (s.ddsPhase + ddsIncrement s.cfg s.ddsTone) }

end Sys2Proof.Machine
end

