-- ==== Sys2Proof/Machine/SymbolClock.lean ====
section
/-! DEFINITION. The symbol clock of 40_symbol_clock.md. -/

namespace Sys2Proof.Machine

/-- The divider step `SymClk(clk, N)` (40_symbol_clock.md R131): the next count, and whether this tick is a bit boundary. -/
def symClk (clk n : Nat) : Nat × Bool := if clk + 1 < n then (clk + 1, false) else (0, true)

end Sys2Proof.Machine
end

