-- ==== Sys2Proof/Machine/Hdlc.lean ====
section
/-! DEFINITION. The HDLC framer and the AFSK transmitter (43_hdlc.md): `AFSK.SUBMIT`, `AFSK.WAIT`, `AFSK.IRQ`,
`AFSK.TICK`. -/

namespace Sys2Proof.Machine

/-- `AFSK.SUBMIT mode, addr, len` (43_hdlc.md R171): the range check, then the hold, then the five registers together. -/
def execAfskSubmit (mode : Space) (addr len : Nat) (s : State) : Res State :=
  requireRange s.cfg 0x20#8 .addr addr len
    (if afskBusy s then hold s
     else .next { s with afskPtr := addr, afskLen := len, afskMode := mode, afskTxen := true, afskIe := true })

/-- `AFSK.WAIT` (43_hdlc.md R172): holds while busy, otherwise nothing. -/
def execAfskWait (s : State) : Res State := if afskBusy s then hold s else .next s

/-- `AFSK.IRQ on` (43_hdlc.md R173). -/
def execAfskIrq (on : Bool) (s : State) : Res State := .next { s with afskIe := on }

/-- Zero insertion (43_hdlc.md R175): the stuffed 0 toggles the tone and takes the whole bit period. -/
def stuffZero (s : State) : State := { s with ddsTone := !s.ddsTone, hdlcOnes := 0#3 }

/-- `LoadFlag` (43_hdlc.md R177). -/
def loadFlag (s : State) : State := { s with hdlcSr := Config.flag, hdlcStuff := false, hdlcOnes := 0#3 }

/-- `LoadContent` (43_hdlc.md R178): fetch, post-increment, the postamble reload at the last byte. -/
def loadContent (s : State) : Res State :=
  (fetch s s.afskMode s.afskPtr).andThen fun b =>
    .next { s with
      hdlcSr := b
      afskPtr := nextPtr s.cfg s.afskPtr
      afskLen := s.afskLen - 1
      hdlcRest := if s.afskLen - 1 = 0 then BitVec.ofNat 8 (s.cfg.restCount + Config.trailExtra) else s.hdlcRest
      hdlcStuff := true }

/-- `Shutdown` (43_hdlc.md R180). -/
def shutdown (s : State) : State :=
  { s with
    afskTxen := false
    afskIe := false
    ddsPhase := 0
    afskClk := 0
    ddsTone := false
    hdlcRest := BitVec.ofNat 8 s.cfg.restIdle
    hdlcBit := 7#3
    hdlcOnes := 0#3
    hdlcStuff := false }

/-- `EmitBit` (43_hdlc.md R179): a 1 holds the tone and is counted while stuffing is active; a 0 toggles the tone and clears
the count. -/
def emitBit (s : State) : State :=
  if s.hdlcSr.getLsbD 0 then
    { s with
      hdlcSr := s.hdlcSr >>> (1 : Nat)
      hdlcOnes := if s.hdlcStuff then s.hdlcOnes + 1#3 else s.hdlcOnes }
  else
    { s with
      hdlcSr := s.hdlcSr >>> (1 : Nat)
      ddsTone := !s.ddsTone
      hdlcOnes := 0#3 }

/-- The byte boundary takes a flag (or the shutdown) rather than content: the condition of 43_hdlc.md R176. -/
def flagDue (s : State) : Bool := decide (s.cfg.restCount < s.hdlcRest.toNat) || decide (s.afskLen = 0)

/-- `ByteBoundary` (43_hdlc.md R176): the state with the next byte loaded, and whether the transmitter shut down. -/
def byteBoundary (s : State) : Res (State × Bool) :=
  if flagDue s then
    if s.hdlcRest - 1#8 = 0#8 then .next (shutdown { s with hdlcRest := s.hdlcRest - 1#8 }, true)
    else .next (loadFlag { s with hdlcRest := s.hdlcRest - 1#8 }, false)
  else (loadContent s).andThen fun t => .next (t, false)

/-- `HdlcBit` (43_hdlc.md R175): a stuffed 0, or the shutdown, or the next bit of the current byte. -/
def hdlcBitStep (s : State) : Res State :=
  if s.hdlcOnes = 5#3 then .next (stuffZero s)
  else if s.hdlcBit = 7#3 then
    (byteBoundary s).andThen fun (t, shut) =>
      if shut then .next t else .next (emitBit { t with hdlcBit := 0#3 })
  else .next (emitBit { s with hdlcBit := s.hdlcBit + 1#3 })

/-- The AFSK half of a tick (43_hdlc.md R174): DDS, then symbol clock, then on a boundary the bit logic. -/
def afskTickStep (s : State) : Res State :=
  if s.afskIe then
    match symClk s.afskClk s.cfg.nAfsk with
    | (k, false) => .next { ddsStep s with afskClk := k }
    | (k, true) => hdlcBitStep { ddsStep s with afskClk := k }
  else .next s

/-- `AFSK.TICK` (43_hdlc.md R174). -/
def execAfskTick (s : State) : Res State := afskTickStep s

end Sys2Proof.Machine
end

