-- ==== Sys2Proof/Machine/Rtty.lean ====
section
/-! DEFINITION. The RTTY transmitter (41_rtty.md): `RTTY.SUBMIT`, `RTTY.ENABLE`, `RTTY.WAIT`, `RTTY.IRQ`, `RTTY.TICK`. -/

namespace Sys2Proof.Machine

/-- `RTTY.SUBMIT mode, addr, len` (41_rtty.md R142): the range check, then the hold, then the three registers together. -/
def execRttySubmit (mode : Space) (addr len : Nat) (s : State) : Res State :=
  requireRange s.cfg 0x10#8 .addr addr len
    (if rttyBusy s then hold s
     else .next { s with rttyPtr := addr, rttyLen := len, rttyMode := mode })

/-- `RTTY.ENABLE on` (41_rtty.md R143). -/
def execRttyEnable (on : Bool) (s : State) : Res State := .next { s with rttyTxen := on }

/-- `RTTY.WAIT` (41_rtty.md R144): holds while busy, otherwise nothing. -/
def execRttyWait (s : State) : Res State := if rttyBusy s then hold s else .next s

/-- `RTTY.IRQ on` (41_rtty.md R145). -/
def execRttyIrq (on : Bool) (s : State) : Res State := .next { s with rttyIe := on }

/-- START with a byte available (41_rtty.md R146): fetch, post-increment, start bit. -/
def rttyStart (s : State) : Res State :=
  (fetch s s.rttyMode s.rttyPtr).andThen fun b =>
    .next { s with
      rttySr := b
      rttyPtr := nextPtr s.cfg s.rttyPtr
      rttyLen := s.rttyLen - 1
      rttyLine := false
      rttyBit := 1#4 }

/-- DATA0 to DATA7 (41_rtty.md R146): the next data bit, least significant first. -/
def rttyData (s : State) : State :=
  { s with
    rttyLine := s.rttySr.getLsbD 0
    rttySr := s.rttySr >>> (1 : Nat)
    rttyBit := s.rttyBit + 1#4 }

/-- STOP (41_rtty.md R146): the stop bit. -/
def rttyStop (s : State) : State := { s with rttyLine := true, rttyBit := 0#4 }

/-- One framing bit, at a bit boundary (41_rtty.md R146). -/
def rttyFrameBit (s : State) : Res State :=
  if s.rttyBit = 0#4 then
    if s.rttyLen = 0 then .next { s with rttyLine := true } else rttyStart s
  else if s.rttyBit.toNat ≤ Config.rttyDataBits then .next (rttyData s)
  else .next (rttyStop s)

/-- The RTTY half of a tick (41_rtty.md R146). -/
def rttyTickStep (s : State) : Res State :=
  if s.rttyIe then
    match symClk s.rttyClk s.cfg.nRtty with
    | (k, false) => .next { s with rttyClk := k }
    | (k, true) => rttyFrameBit { s with rttyClk := k }
  else .next s

/-- `RTTY.TICK` (41_rtty.md R146). -/
def execRttyTick (s : State) : Res State := rttyTickStep s

end Sys2Proof.Machine
end

