-- ==== Sys2Proof/Machine/Tick.lean ====
section
/-! DEFINITION. The `TICK` event (40_symbol_clock.md R133): both halves in one atomic step. -/

namespace Sys2Proof.Machine

/-- `TICK` (40_symbol_clock.md R133): the RTTY half, then the AFSK half. -/
def execTick (s : State) : Res State := (rttyTickStep s).andThen afskTickStep

end Sys2Proof.Machine
end

