-- ==== Sys2Proof/Machine/Dispatch.lean ====
section
/-! DEFINITION. One arm per operation of spec/opcode_table.json. -/

namespace Sys2Proof.Machine

def exec (i : Instr) (s : State) : Host.Outcome State Fault Refusal :=
  match i with
  | .reset => Sys2Proof.Machine.execReset s
  | .tick => Sys2Proof.Machine.execTick s
  | .hostSt addr b => Sys2Proof.Machine.execHostSt addr b s
  | .hostLd mode addr => Sys2Proof.Machine.execHostLd mode addr s
  | .status => Sys2Proof.Machine.execStatus s
  | .rttySubmit mode addr len => Sys2Proof.Machine.execRttySubmit mode addr len s
  | .rttyEnable on => Sys2Proof.Machine.execRttyEnable on s
  | .rttyWait => Sys2Proof.Machine.execRttyWait s
  | .rttyIrq on => Sys2Proof.Machine.execRttyIrq on s
  | .rttyTick => Sys2Proof.Machine.execRttyTick s
  | .afskSubmit mode addr len => Sys2Proof.Machine.execAfskSubmit mode addr len s
  | .afskWait => Sys2Proof.Machine.execAfskWait s
  | .afskIrq on => Sys2Proof.Machine.execAfskIrq on s
  | .afskTick => Sys2Proof.Machine.execAfskTick s
  | .crcInit => Sys2Proof.Machine.execCrcInit s
  | .crcByte b => Sys2Proof.Machine.execCrcByte b s
  | .crcFcs => Sys2Proof.Machine.execCrcFcs s
  | .fbBuild args => Sys2Proof.Machine.execFbBuild args s
  | .fbLen => Sys2Proof.Machine.execFbLen s
  | .b91Enc value width dst => Sys2Proof.Machine.execB91Enc value width dst s

end Sys2Proof.Machine
end

