-- ==== Sys2Proof/Machine/Agents.lean ====
section
/-! DEFINITION. The two agents (00_scope.md R8): whose turn it is, how the host fetches its next command, how a hold gives
the step to the tick agent, and how a command is placed where the next step finds it. -/

namespace Sys2Proof.Machine

/-- Whose turn it is (20_memory.md R70, 46_system.md R243). A turn given from outside comes first. Otherwise a host without
a command leaves the step to the tick agent, and where both can move a free value decides (log 1). -/
def nextTurn (s : State) : Turn × State :=
  match s.sched with
  | t :: ts => (t, { s with sched := ts })
  | [] =>
    if s.hostIn = [] then (.tick, s)
    else if Config.freeTurn s.freeIdx then (.host, { s with freeIdx := s.freeIdx + 1 })
    else (.tick, { s with freeIdx := s.freeIdx + 1 })

/-- A step of the tick agent: its only operation is `TICK`, both halves in the one step (00_scope.md R8,
40_symbol_clock.md R133). -/
def tickTurn (s : State) : Res State := exec .tick s

/-- The state in which the host runs its command: the command taken off the stream, no hold noted. -/
def takeCommand (s : State) (rest : List Byte) : State := { s with hostIn := rest, hostHeld := false }

/-- The state of a host that holds: its command stays at the head of the stream (60_exceptions.md R256; log 8). -/
def holding (s : State) : State := { s with hostHeld := true }

/-- A step at the host's turn: the decoded command runs; where it holds, the host has no step and the tick agent takes it
(60_exceptions.md R256, 46_system.md R243); where there is no command, likewise. A command that
does not decode is refused (R251, R252). -/
def hostTurn (s : State) : Res State :=
  match decodeHost s.cfg s.hostIn with
  | .ok (i, rest) =>
    Res.andThen (exec i (takeCommand s rest)) fun t =>
      if t.hostHeld then tickTurn (holding s) else .next t
  | .error .noCommand => tickTurn s
  | .error (.illegalOpcode op) => .refused (.illegalOpcode op)
  | .error (.badOperand op f) => .refused (.badOperand op f)

/-- A step of the agent whose turn it is. -/
def runTurn (t : Turn) (s : State) : Res State :=
  match t with
  | .host => hostTurn s
  | .tick => tickTurn s

/-- The bytes of a table word's command: as many as its opcode has, at least the table's, every bit above `nbits` zero. -/
def placedBytes (c : Config) (nbits w : Nat) : List Byte :=
  wordBytes nbits w (max (nbits / 8) ((commandBytes c (BitVec.ofNat 8 (w % 2 ^ nbits))).getD 1))

/-- An event of the tick agent placed so that the next step, a `TICK`, is that event: for one of its two halves the other half
is masked, since the tick agent issues no half alone (00_scope.md R8, 30_encoding.md R95, 60_exceptions.md R261; log 10). -/
def placeEvent (s : State) (i : Instr) : State :=
  { s with
    sched := .tick :: s.sched
    rttyIe := s.rttyIe && decide (i ≠ .afskTick)
    afskIe := s.afskIe && decide (i ≠ .rttyTick) }

/-- The command of a table word placed where the next step runs it: an event of the tick agent as the next turn's `TICK`, any
other at the head of the host's stream with the next turn the host's (log 2). -/
def placeCommand (s : State) (nbits w : Nat) : State :=
  match decodeEvent s.cfg (BitVec.ofNat 8 (w % 2 ^ nbits)) with
  | some i => placeEvent s i
  | none => { s with sched := .host :: s.sched, hostIn := placedBytes s.cfg nbits w ++ s.hostIn }

end Sys2Proof.Machine
end

