-- ==== Sys2Proof/Machine/Step.lean ====
section
/-! DEFINITION. One step of the machine: the agent whose turn it is takes its step (20_memory.md R70). -/

namespace Sys2Proof.Machine

/-- One step in the total order of the two agents (20_memory.md R70, 46_system.md R243). -/
def step (s : State) : Host.Outcome State Fault Refusal := runTurn (nextTurn s).1 (nextTurn s).2

/-- The state with a table word's command placed where the very next step fetches and runs it (log 2). -/
def State.withFetchWord (s : State) (nbits w : Nat) : State := placeCommand s nbits w

end Sys2Proof.Machine
end

