-- ==== Sys2Proof/Machine/LineFormat.lean ====
section
/-! DEFINITION. The line formats of 30_encoding.md Part B as pure functions (41_rtty.md R147, 43_hdlc.md R181, R182), in
terms of which claims say what the transmitters send. Bits are in order of time, first transmitted first. -/

namespace Sys2Proof.Machine

/-- The bits of a byte, least significant first. -/
def byteBits (b : Byte) : List Bool := (List.range 8).map b.getLsbD

/-- `RttyChar(b)` (41_rtty.md R147): start bit, eight data bits, stop bit. -/
def rttyChar (b : Byte) : List Bool := false :: byteBits b ++ [true]

/-- `Lsb(B)` (43_hdlc.md R181). -/
def lsbBits (bs : List Byte) : List Bool := bs.flatMap byteBits

/-- `Stuff(X)` with the counter standing at `n` (43_hdlc.md R181). -/
def stuffFrom : Nat → List Bool → List Bool
  | _, [] => []
  | _, false :: xs => false :: stuffFrom 0 xs
  | n, true :: xs => if n + 1 = Config.stuffRun then true :: false :: stuffFrom 0 xs else true :: stuffFrom (n + 1) xs

/-- `Stuff(X)` (43_hdlc.md R181). -/
def stuff (xs : List Bool) : List Bool := stuffFrom 0 xs

/-- Removes each 0 that follows five 1s, the run counter standing at `n` (43_hdlc.md R183). -/
def unstuffFrom : Nat → List Bool → List Bool
  | _, [] => []
  | n, x :: xs =>
    if n = Config.stuffRun then unstuffFrom 0 xs
    else x :: unstuffFrom (if x then n + 1 else 0) xs

/-- `FlagBits` (43_hdlc.md R181, 30_encoding.md R104). -/
def flagBits : List Bool := lsbBits [Config.flag]

/-- `n` flags on the line. -/
def flagRun (n : Nat) : List Bool := (List.replicate n flagBits).flatten

/-- `Nrzi(t, X)` (43_hdlc.md R181, 30_encoding.md R106): the tones; a 0 toggles, a 1 holds. -/
def nrzi : Bool → List Bool → List Bool
  | _, [] => []
  | t, x :: xs => (if x then t else !t) :: nrzi (if x then t else !t) xs

/-- `LineBits(B)` (43_hdlc.md R182). -/
def lineBits (c : Config) (bs : List Byte) : List Bool :=
  flagRun Config.preambleFlags ++ stuff (lsbBits bs) ++ flagRun (c.restCount + Config.trailExtra - 1)

end Sys2Proof.Machine
end

