-- ==== Sys2Proof/Safety.lean ====
section
/-! DEFINITION. What claims are stated in: the invariant of 10_state.md R53 with the widths and ranges it rests on, the idle
state of the AFSK transmitter, and runs of ticks. -/

namespace Sys2Proof.Machine

/-- The invariant that holds between any two steps from the reset state, for a well-formed configuration: 10_state.md R53,
the register widths of R21 to R46, the memories' canonical form, and the admitted ranges of busy descriptors
(20_memory.md R77). -/
structure State.Inv (s : State) : Prop where
  /-- The configuration is well-formed (00_scope.md R7). -/
  cfgWF : s.cfg.WF
  dataWF : Mem.wf s.dataMem = true
  dataIn : Mem.inSpace s.cfg.spaceSize s.dataMem = true
  constWF : Mem.wf s.constMem = true
  constIn : Mem.inSpace s.cfg.spaceSize s.constMem = true
  rttyClk : s.rttyClk < s.cfg.nRtty
  afskClk : s.afskClk < s.cfg.nAfsk
  rttyBit : s.rttyBit.toNat ≤ 9
  hdlcOnes : s.hdlcOnes.toNat ≤ 5
  stuffOff : s.hdlcStuff = false → s.hdlcOnes = 0#3
  restLow : 1 ≤ s.hdlcRest.toNat
  restHigh : s.hdlcRest.toNat ≤ s.cfg.restIdle
  rttyPtr : s.rttyPtr < 2 ^ s.cfg.addrBits
  rttyLen : s.rttyLen < 2 ^ s.cfg.lenBits
  afskPtr : s.afskPtr < 2 ^ s.cfg.addrBits
  afskLen : s.afskLen < 2 ^ s.cfg.lenBits
  phase : s.ddsPhase < 2 ^ s.cfg.phaseBits
  sample : s.afskSample < 2 ^ s.cfg.sampleBits
  fbLen : s.fbLen < 2 ^ s.cfg.lenBits
  rttyRange : s.rttyLen ≠ 0 → s.rttyPtr + s.rttyLen ≤ s.cfg.spaceSize
  afskRange : s.afskLen ≠ 0 → s.afskPtr + s.afskLen ≤ s.cfg.spaceSize

/-- The AFSK registers the shutdown writes, at their idle values (43_hdlc.md R180, 10_state.md R53). -/
abbrev State.AfskIdle (s : State) : Prop :=
  s.ddsPhase = 0 ∧ s.afskClk = 0 ∧ s.ddsTone = false ∧ s.hdlcBit = 7#3 ∧ s.hdlcOnes = 0#3 ∧ s.hdlcStuff = false ∧
  s.hdlcRest = BitVec.ofNat 8 s.cfg.restIdle

/-- Phase OFF of 43_hdlc.md R187. -/
abbrev State.PhaseOff (s : State) : Prop := s.afskIe = false ∧ s.AfskIdle

/-- Phase PREAMBLE of 43_hdlc.md R187. -/
abbrev State.PhasePreamble (s : State) : Prop :=
  s.afskIe = true ∧ s.cfg.restCount < s.hdlcRest.toNat ∧ s.afskLen ≠ 0

/-- Phase DATA of 43_hdlc.md R187. -/
abbrev State.PhaseData (s : State) : Prop := s.afskIe = true ∧ s.hdlcStuff = true

/-- Phases POSTAMBLE and REST of 43_hdlc.md R187, which the registers do not tell apart. -/
abbrev State.PhaseClosing (s : State) : Prop := s.afskIe = true ∧ s.afskLen = 0 ∧ s.hdlcStuff = false

/-- `n` repetitions of one operation, stopping at the first fault or refusal. -/
def repeatOp (i : Instr) : Nat → State → Res State
  | 0, s => .next s
  | n + 1, s => Res.andThen (exec i s) (repeatOp i n)

/-- `n` steps of the machine, stopping at the first fault or refusal. -/
def stepTimes : Nat → State → Res State
  | 0, s => .next s
  | n + 1, s => Res.andThen (step s) (stepTimes n)

/-- The bytes a descriptor still has to send, as its space stands (20_memory.md R65, R66). -/
def pendingBytes (s : State) (mode : Space) (ptr len : Nat) : List Byte :=
  (List.range len).map fun j => Mem.read (spaceMem s mode) (ptr + j)

/-- Two states agree on every register that belongs to the RTTY transmitter (41_rtty.md R141). -/
abbrev sameRtty (s t : State) : Prop :=
  t.rttyPtr = s.rttyPtr ∧ t.rttyLen = s.rttyLen ∧ t.rttyMode = s.rttyMode ∧ t.rttyClk = s.rttyClk ∧
  t.rttyBit = s.rttyBit ∧ t.rttySr = s.rttySr ∧ t.rttyLine = s.rttyLine ∧ t.rttyTxen = s.rttyTxen ∧ t.rttyIe = s.rttyIe

/-- Two states agree on every register that belongs to the AFSK transmitter (43_hdlc.md R170). -/
abbrev sameAfsk (s t : State) : Prop :=
  t.afskPtr = s.afskPtr ∧ t.afskLen = s.afskLen ∧ t.afskMode = s.afskMode ∧ t.afskClk = s.afskClk ∧
  t.ddsPhase = s.ddsPhase ∧ t.ddsTone = s.ddsTone ∧ t.afskSample = s.afskSample ∧ t.hdlcSr = s.hdlcSr ∧
  t.hdlcBit = s.hdlcBit ∧ t.hdlcOnes = s.hdlcOnes ∧ t.hdlcStuff = s.hdlcStuff ∧ t.hdlcRest = s.hdlcRest ∧
  t.afskTxen = s.afskTxen ∧ t.afskIe = s.afskIe

/-- Two states agree on every register that belongs to the frame builder (10_state.md R44 to R46). -/
abbrev sameBuilder (s t : State) : Prop := t.crc = s.crc ∧ t.fbLen = s.fbLen ∧ t.fbTrunc = s.fbTrunc

/-- Two states agree on both memories and the configuration. -/
abbrev sameMemory (s t : State) : Prop := t.dataMem = s.dataMem ∧ t.constMem = s.constMem ∧ t.cfg = s.cfg

/-- Two states agree on the model's own fields: streams, hold, schedule and free-value counter. -/
abbrev sameAgents (s t : State) : Prop :=
  t.hostIn = s.hostIn ∧ t.hostOut = s.hostOut ∧ t.hostHeld = s.hostHeld ∧ t.sched = s.sched ∧ t.freeIdx = s.freeIdx

/-- Two states agree on everything but registers a transmitter may not have written yet (70_reset_and_hazards.md R281): a
descriptor's pointer and mode while its length is 0, a shift register at the boundary that loads it, and the sample. -/
structure AgreeWhereWritten (s t : State) : Prop where
  same : t = { s with
    rttyPtr := t.rttyPtr
    rttyMode := t.rttyMode
    rttySr := t.rttySr
    afskPtr := t.afskPtr
    afskMode := t.afskMode
    afskSample := t.afskSample
    hdlcSr := t.hdlcSr }
  rttyDescriptor : s.rttyLen ≠ 0 → t.rttyPtr = s.rttyPtr ∧ t.rttyMode = s.rttyMode
  rttyShift : s.rttyBit ≠ 0#4 → t.rttySr = s.rttySr
  afskDescriptor : s.afskLen ≠ 0 → t.afskPtr = s.afskPtr ∧ t.afskMode = s.afskMode
  hdlcShift : s.hdlcBit ≠ 7#3 → t.hdlcSr = s.hdlcSr

/-- The operand fields of an operation's command, in the order of its format (30_encoding.md R93, R95). -/
def fieldsOf : Instr → List Field
  | .hostSt _ _ => [.addr, .b]
  | .hostLd _ _ => [.mode, .addr]
  | .rttySubmit _ _ _ => [.mode, .addr, .len]
  | .rttyEnable _ => [.on]
  | .rttyIrq _ => [.on]
  | .afskSubmit _ _ _ => [.mode, .addr, .len]
  | .afskIrq _ => [.on]
  | .crcByte _ => [.b]
  | .fbBuild _ =>
    [.dst, .dcall, .dssid, .scall, .sssid, .p1, .p1call, .p1ttl, .p2, .p2call, .p2ttl, .pmode, .paddr, .plen]
  | .b91Enc _ _ _ => [.value, .width, .dst]
  | .reset => []
  | .tick => []
  | .status => []
  | .rttyWait => []
  | .rttyTick => []
  | .afskWait => []
  | .afskTick => []
  | .crcInit => []
  | .crcFcs => []
  | .fbLen => []

/-- The width in bits of a field's kind (30_encoding.md R92). -/
def fieldWidth (c : Config) : Field → Nat
  | .on | .mode | .p1 | .p2 | .pmode => 1
  | .addr | .dst | .paddr => c.addrBits
  | .len | .plen => c.lenBits
  | .b | .width | .dssid | .sssid | .p1ttl | .p2ttl => 8
  | .value => c.b91ValueBits
  | .dcall | .scall | .p1call | .p2call => 56

/-- The field of a format in whose bytes the `k`-th operand byte lies. -/
def fieldAt (c : Config) : List Field → Nat → Option Field
  | [], _ => none
  | f :: fs, k => if k < fieldBytes (fieldWidth c f) then some f else fieldAt c fs (k - fieldBytes (fieldWidth c f))

/-- The operand bytes of a format before a field. -/
def fieldOffset (c : Config) (fs : List Field) (f : Field) : Nat :=
  ((fs.takeWhile (· ≠ f)).map fun g => fieldBytes (fieldWidth c g)).sum

/-- The bytes of a field are refused (60_exceptions.md R252 a, b): a callsign's length is over 6, any other field's value is too wide
for it. -/
def FieldMalformed (c : Config) (f : Field) (bs : List Byte) : Prop :=
  match f with
  | .dcall | .scall | .p1call | .p2call => 6 < (bs.headD 0#8).toNat
  | _ => 2 ^ fieldWidth c f ≤ ofBytesBE bs

/-- No byte of the range is owned by a busy transmitter and not yet fetched (20_memory.md R74). -/
abbrev Unowned (s : State) (addr n : Nat) : Prop := ∀ a, addr ≤ a → a < addr + n → owned s a = false

end Sys2Proof.Machine
end

