-- ==== Sys2Proof/Certificates/Slice0/Obligations.lean ====
section
/-! DEFINITION. The statements about SWIFT-CORE, each `Obligations.<Name> : Prop`; OBLIGATIONS.json says which rules they
formalise. A next state written as a record update of the state before says the whole frame: every field not named in it is
unchanged. -/

open Sys2Proof Sys2Proof.Machine

/-! ### Reset and invariants -/

/-- The state after power-on, in any well-formed configuration and with any memories, satisfies the invariant (70 R283), has every
register whose reset value 70 R281 gives at that value, and is idle, masked and gated off (70 R280), its AFSK registers as the
shutdown leaves them (43 R180). RESET leaves it as it is but for the seven unspecified registers (70 R280). The zeros in those
seven are the model's (log 5); nothing here depends on them but their widths. -/
def Obligations.PowerOnSatisfiesInvariant : Prop :=
  ∀ (c : Config) (k d : Mem) (s : State), c.WF → Mem.wf k = true → Mem.inSpace c.spaceSize k = true → Mem.wf d = true →
    Mem.inSpace c.spaceSize d = true → s = State.powerOn c k d →
    s.Inv ∧ s.PhaseOff ∧
    s.rttyLen = 0 ∧ s.rttyClk = 0 ∧ s.rttyBit = 0#4 ∧ s.rttyLine = true ∧ s.rttyTxen = false ∧ s.rttyIe = false ∧
    s.afskLen = 0 ∧ s.afskClk = 0 ∧ s.ddsPhase = 0 ∧ s.ddsTone = false ∧ s.hdlcBit = 7#3 ∧ s.hdlcOnes = 0#3 ∧
    s.hdlcStuff = false ∧ s.hdlcRest = BitVec.ofNat 8 (10 + c.restCount) ∧ s.afskTxen = false ∧ s.afskIe = false ∧
    s.crc = 0xFFFF#16 ∧ s.fbLen = 0 ∧ s.fbTrunc = false ∧
    s.cfg = c ∧ s.constMem = k ∧ s.dataMem = d ∧ s.hostIn = [] ∧ s.hostHeld = false ∧
    statusWord s = 0x00#8 ∧ portsOf s = ⟨true, false, s.afskSample, false⟩ ∧
    ∃ t, exec .reset s = .next t ∧ t = { s with
      rttyPtr := t.rttyPtr
      rttyMode := t.rttyMode
      rttySr := t.rttySr
      afskPtr := t.afskPtr
      afskMode := t.afskMode
      afskSample := t.afskSample
      hdlcSr := t.hdlcSr
      freeIdx := t.freeIdx }

/-- Every step keeps the invariant: 10 R53's, the register widths, the memories' canonical form and the admitted ranges of
busy descriptors. -/
def Obligations.StepKeepsInvariant : Prop :=
  ∀ s t : State, s.Inv → step s = .next t → t.Inv

/-- A step from a state that satisfies the invariant never faults (60 R254: "no run from reset reaches it"). -/
def Obligations.InvariantRulesOutFaults : Prop :=
  ∀ (s : State) (f : Fault), s.Inv → step s ≠ .fault f

/-- 10 R53, last clause: unless the host issues AFSK.IRQ 0, a masked AFSK transmitter is at its idle values. -/
def Obligations.MaskedMeansIdleUnlessHostMasks : Prop :=
  ∀ (i : Instr) (s t : State), i ≠ .afskIrq false → (s.afskIe = false → s.AfskIdle) → exec i s = .next t →
    (t.afskIe = false → t.AfskIdle)

/-! ### Encoding -/

/-- Decoding an encoded well-formed operation gives it back, with whatever bytes follow. -/
def Obligations.EncodedCommandsDecodeBack : Prop :=
  ∀ (c : Config) (i : Instr) (rest : List Byte), i.WF c → decode c (encode c i ++ rest) = .ok (i, rest)

/-- Bytes that decode are the encoding of what they decode to, which is well-formed: each operation has one byte form. -/
def Obligations.DecodedBytesAreTheEncoding : Prop :=
  ∀ (c : Config) (bs : List Byte) (i : Instr) (rest : List Byte), decode c bs = .ok (i, rest) →
    i.WF c ∧ bs = encode c i ++ rest

/-- 60 R251: an opcode outside the map, or a tick-agent opcode in the host stream, is refused at the host's turn. -/
def Obligations.IllegalOpcodeIsRefused : Prop :=
  ∀ (s u : State) (op : Byte) (bs : List Byte), nextTurn s = (.host, u) → u.hostIn = op :: bs →
    (op.toNat ∉ [0x01, 0x02, 0x03, 0x04, 0x05, 0x10, 0x11, 0x12, 0x13, 0x14, 0x20, 0x22, 0x23, 0x24, 0x30, 0x31, 0x32,
        0x38, 0x39, 0x40] ∨ op.toNat ∈ [0x02, 0x14, 0x24]) →
    step s = .refused (.illegalOpcode op)

/-- 60 R252 (a), (b), (d). At every turn of the host the step is the refusal its decoder names. Every non-empty proper beginning of a
command is refused by the field it ends in; so is a command in which, after well-formed fields, a field stands whose pad bits are
not 0 (an `on` or `mode` byte over 1, an address, length or value over its width) or a callsign longer than 6. Which name a
refusal reports is DEDUCED (log 15), and that a cut command does not wait for its rest is the model's choice (log 17). -/
def Obligations.MalformedFieldsAreRefused : Prop :=
  (∀ s u : State, nextTurn s = (.host, u) →
    (decodeHost u.cfg u.hostIn = .error .noCommand ↔ u.hostIn = []) ∧
    (∀ op, decodeHost u.cfg u.hostIn = .error (.illegalOpcode op) → step s = .refused (.illegalOpcode op)) ∧
    (∀ op f, decodeHost u.cfg u.hostIn = .error (.badOperand op f) → step s = .refused (.badOperand op f))) ∧
  (∀ (c : Config) (i : Instr) (n : Nat), i.WF c → i.agent = .host → 1 ≤ n → n < (encode c i).length →
    ∃ f, fieldAt c (fieldsOf i) (n - 1) = some f ∧
      decodeHost c ((encode c i).take n) = .error (.badOperand (opcodeOf i) f)) ∧
  (∀ (c : Config) (i : Instr) (f : Field) (bad rest : List Byte), i.WF c → i.agent = .host → f ∈ fieldsOf i →
    bad.length = fieldBytes (fieldWidth c f) → FieldMalformed c f bad →
    decodeHost c ((encode c i).take (1 + fieldOffset c (fieldsOf i) f) ++ bad ++ rest) =
      .error (.badOperand (opcodeOf i) f))

/-- Every opcode of 30 R95 selects its operation, and every format of 30 R93 its fields in order: words of 30 R99 and of
95_test_vectors.md, and for the rest words written from R92 to R95, decode in CFG_REF to the operations they stand for. The
last `FB.BUILD` has one path and a payload in CONST. -/
def Obligations.SpecExampleWordsDecode : Prop :=
  decode Config.ref [0x01#8] = .ok (.reset, []) ∧
  decode Config.ref [0x02#8] = .ok (.tick, []) ∧
  decode Config.ref [0x03#8, 0x03#8, 0x00#8, 0x21#8] = .ok (.hostSt 0x0300 0x21#8, []) ∧
  decode Config.ref [0x04#8, 0x00#8, 0x03#8, 0x00#8] = .ok (.hostLd .data 0x0300, []) ∧
  decode Config.ref [0x05#8] = .ok (.status, []) ∧
  decode Config.ref [0x10#8, 0x00#8, 0x04#8, 0x00#8, 0x00#8, 0x01#8] = .ok (.rttySubmit .data 0x0400 1, []) ∧
  decode Config.ref [0x11#8, 0x01#8] = .ok (.rttyEnable true, []) ∧
  decode Config.ref [0x12#8] = .ok (.rttyWait, []) ∧
  decode Config.ref [0x13#8, 0x01#8] = .ok (.rttyIrq true, []) ∧
  decode Config.ref [0x14#8] = .ok (.rttyTick, []) ∧
  decode Config.ref [0x20#8, 0x00#8, 0x01#8, 0x00#8, 0x00#8, 0x18#8] = .ok (.afskSubmit .data 0x0100 24, []) ∧
  decode Config.ref [0x20#8, 0x01#8, 0x00#8, 0x40#8, 0x00#8, 0x03#8] = .ok (.afskSubmit .const 0x0040 3, []) ∧
  decode Config.ref [0x22#8] = .ok (.afskWait, []) ∧
  decode Config.ref [0x23#8, 0x00#8] = .ok (.afskIrq false, []) ∧
  decode Config.ref [0x24#8] = .ok (.afskTick, []) ∧
  decode Config.ref [0x30#8] = .ok (.crcInit, []) ∧
  decode Config.ref [0x31#8, 0x41#8] = .ok (.crcByte 0x41#8, []) ∧
  decode Config.ref [0x32#8] = .ok (.crcFcs, []) ∧
  decode Config.ref [0x39#8] = .ok (.fbLen, []) ∧
  decode Config.ref [0x40#8, 0x00#8, 0xBC#8, 0x61#8, 0x4E#8, 0x04#8, 0x02#8, 0x00#8] =
    .ok (.b91Enc 12345678 4#8 0x0200, []) ∧
  decode Config.ref [0x38#8, 0x01#8, 0x00#8, 0x04#8, 0x41#8, 0x50#8, 0x52#8, 0x53#8, 0x20#8, 0x20#8, 0x00#8, 0x06#8, 0x4E#8,
    0x30#8, 0x43#8, 0x41#8, 0x4C#8, 0x4C#8, 0x0B#8, 0x01#8, 0x05#8, 0x57#8, 0x49#8, 0x44#8, 0x45#8, 0x31#8, 0x20#8, 0x01#8,
    0x01#8, 0x05#8, 0x57#8, 0x49#8, 0x44#8, 0x45#8, 0x32#8, 0x20#8, 0x01#8, 0x00#8, 0x03#8, 0x00#8, 0x00#8, 0x05#8] =
    .ok (.fbBuild {
      dst := 0x0100
      dcall := ⟨4#8, 0x41#8, 0x50#8, 0x52#8, 0x53#8, 0x20#8, 0x20#8⟩
      dssid := 0#8
      scall := ⟨6#8, 0x4E#8, 0x30#8, 0x43#8, 0x41#8, 0x4C#8, 0x4C#8⟩
      sssid := 11#8
      p1 := true
      p1call := ⟨5#8, 0x57#8, 0x49#8, 0x44#8, 0x45#8, 0x31#8, 0x20#8⟩
      p1ttl := 1#8
      p2 := true
      p2call := ⟨5#8, 0x57#8, 0x49#8, 0x44#8, 0x45#8, 0x32#8, 0x20#8⟩
      p2ttl := 1#8
      pmode := .data
      paddr := 0x0300
      plen := 5 }, []) ∧
  decode Config.ref [0x38#8, 0x01#8, 0x00#8, 0x04#8, 0x41#8, 0x50#8, 0x52#8, 0x53#8, 0x20#8, 0x20#8, 0x00#8, 0x06#8, 0x4E#8,
    0x30#8, 0x43#8, 0x41#8, 0x4C#8, 0x4C#8, 0x01#8, 0x01#8, 0x05#8, 0x57#8, 0x49#8, 0x44#8, 0x45#8, 0x31#8, 0x20#8, 0x07#8,
    0x00#8, 0x00#8, 0x20#8, 0x20#8, 0x20#8, 0x20#8, 0x20#8, 0x20#8, 0x00#8, 0x01#8, 0x00#8, 0x40#8, 0x00#8, 0x06#8] =
    .ok (.fbBuild {
      dst := 0x0100
      dcall := ⟨4#8, 0x41#8, 0x50#8, 0x52#8, 0x53#8, 0x20#8, 0x20#8⟩
      dssid := 0#8
      scall := ⟨6#8, 0x4E#8, 0x30#8, 0x43#8, 0x41#8, 0x4C#8, 0x4C#8⟩
      sssid := 1#8
      p1 := true
      p1call := ⟨5#8, 0x57#8, 0x49#8, 0x44#8, 0x45#8, 0x31#8, 0x20#8⟩
      p1ttl := 7#8
      p2 := false
      p2call := ⟨0#8, 0x20#8, 0x20#8, 0x20#8, 0x20#8, 0x20#8, 0x20#8⟩
      p2ttl := 0#8
      pmode := .const
      paddr := 0x0040
      plen := 6 }, [])

/-! ### Steps -/

/-- At the host's turn the decoded command runs, taken off the stream; where it holds (60 R256), the stream is as it was and
the tick agent's TICK is the step instead; a fault or a refusal of the command is the step's. The turn taking, the stream and
`hostHeld` are the model's conventions (logs 1, 2, 8). -/
def Obligations.StepRunsDecodedCommand : Prop :=
  ∀ (s u : State) (i : Instr) (rest : List Byte), nextTurn s = (.host, u) → decodeHost u.cfg u.hostIn = .ok (i, rest) →
    i.WF u.cfg ∧ i.agent = .host ∧ u.hostIn = encode u.cfg i ++ rest ∧
    (∀ t, exec i { u with hostIn := rest, hostHeld := false } = .next t → t.hostHeld = false → step s = .next t) ∧
    (∀ t, exec i { u with hostIn := rest, hostHeld := false } = .next t → t.hostHeld = true →
      step s = exec .tick { u with hostHeld := true }) ∧
    (∀ f, exec i { u with hostIn := rest, hostHeld := false } = .fault f → step s = .fault f) ∧
    (∀ r, exec i { u with hostIn := rest, hostHeld := false } = .refused r → step s = .refused r)

/-- At a turn of the tick agent the step is TICK (00_scope R8, 40 R133), which with one transmitter's half masked (60 R261) is the
other half alone. Whose turn it is, is the model's convention (log 1). -/
def Obligations.StepRunsTickEvent : Prop :=
  ∀ s u : State, nextTurn s = (.tick, u) →
    step s = exec .tick u ∧ (u.afskIe = false → step s = exec .rttyTick u) ∧
    (u.rttyIe = false → step s = exec .afskTick u)

/-- 00_scope R8, 46 R243: a step that goes on is one operation of one agent, on the registers and memories as they were: the host's,
decoded from the head of its stream and not holding, or the tick agent's TICK. -/
def Obligations.EveryStepIsOneOperation : Prop :=
  ∀ s t : State, step s = .next t →
    ∃ u : State, u = { s with hostIn := u.hostIn, hostHeld := u.hostHeld, sched := u.sched, freeIdx := u.freeIdx } ∧
      ((u.hostIn = s.hostIn ∧ exec .tick u = .next t) ∨
        ∃ i : Instr, i.agent = .host ∧ i.WF s.cfg ∧ s.hostIn = encode s.cfg i ++ u.hostIn ∧ exec i u = .next t ∧
          t.hostHeld = false)

/-- A turn given from outside is taken; a host with no command leaves the step to TICK; where both agents can move and nothing
says which, the step is the host's or the tick agent's as the free value says (the model's conventions, log 1). -/
def Obligations.TurnsAreTakenInOrder : Prop :=
  ∀ s : State,
    (∀ t ts, s.sched = t :: ts → nextTurn s = (t, { s with sched := ts })) ∧
    (s.sched = [] → s.hostIn = [] → step s = exec .tick s) ∧
    (∀ ts, s.sched = .host :: ts → s.hostIn = [] → step s = exec .tick { s with sched := ts }) ∧
    (s.sched = [] → s.hostIn ≠ [] →
      nextTurn s = (if Config.freeTurn s.freeIdx then .host else .tick, { s with freeIdx := s.freeIdx + 1 }))

/-! ### System operations -/

/-- RESET (46 R240) answers a state with every register of 70 R281 at its value (an unspecified one at some value of its
width), both memories, the configuration and the streams as they were, and STATUS 0x00. -/
def Obligations.ResetLeavesTable : Prop :=
  ∀ s : State, encode s.cfg .reset = [0x01#8] ∧ ∃ t, exec .reset s = .next t ∧
    t.rttyLen = 0 ∧ t.rttyClk = 0 ∧ t.rttyBit = 0#4 ∧ t.rttyLine = true ∧ t.rttyTxen = false ∧ t.rttyIe = false ∧
    t.afskLen = 0 ∧ t.afskClk = 0 ∧ t.ddsPhase = 0 ∧ t.ddsTone = false ∧ t.hdlcBit = 7#3 ∧ t.hdlcOnes = 0#3 ∧
    t.hdlcStuff = false ∧ t.hdlcRest = BitVec.ofNat 8 (10 + s.cfg.restCount) ∧ t.afskTxen = false ∧ t.afskIe = false ∧
    t.crc = 0xFFFF#16 ∧ t.fbLen = 0 ∧ t.fbTrunc = false ∧
    t.rttyPtr < 2 ^ s.cfg.addrBits ∧ t.afskPtr < 2 ^ s.cfg.addrBits ∧ t.afskSample < 2 ^ s.cfg.sampleBits ∧
    statusWord t = 0x00#8 ∧ portsOf t = ⟨true, false, t.afskSample, false⟩ ∧
    sameMemory s t ∧ t.hostIn = s.hostIn ∧ t.hostOut = s.hostOut ∧ t.hostHeld = s.hostHeld ∧ t.sched = s.sched

/-- HOST.ST (46 R241): the store of one DATA byte; refused exactly where a busy transmitter owns the byte. -/
def Obligations.HostStoreWritesOneByte : Prop :=
  ∀ (s : State) (addr : Nat) (b : Byte), Mem.wf s.dataMem = true → addr < s.cfg.spaceSize →
    encode s.cfg (.hostSt addr b) = 0x03#8 :: (writeNat s.cfg.addrBits addr ++ [b]) ∧
    (owned s addr = true ↔
      (s.rttyMode = .data ∧ s.rttyLen ≠ 0 ∧ s.rttyPtr ≤ addr ∧ addr < s.rttyPtr + s.rttyLen) ∨
      (s.afskMode = .data ∧ s.afskLen ≠ 0 ∧ s.afskPtr ≤ addr ∧ addr < s.afskPtr + s.afskLen)) ∧
    (owned s addr = true → exec (.hostSt addr b) s = .refused (.ownedBufferWrite addr)) ∧
    (owned s addr = false → ∃ t, exec (.hostSt addr b) s = .next t ∧ t = { s with dataMem := t.dataMem } ∧
      ∀ x, Mem.read t.dataMem x = if x = addr then b else Mem.read s.dataMem x)

/-- HOST.LD (46 R242) returns the byte of the space its mode names, and changes nothing else; an owned byte may be read. Where
the byte goes is the model's convention (log 9). -/
def Obligations.HostLoadReturnsByte : Prop :=
  ∀ (s : State) (addr : Nat), addr < s.cfg.spaceSize →
    encode s.cfg (.hostLd .data addr) = 0x04#8 :: 0x00#8 :: writeNat s.cfg.addrBits addr ∧
    encode s.cfg (.hostLd .const addr) = 0x04#8 :: 0x01#8 :: writeNat s.cfg.addrBits addr ∧
    exec (.hostLd .data addr) s = .next { s with hostOut := s.hostOut ++ [Mem.read s.dataMem addr] } ∧
    exec (.hostLd .const addr) s = .next { s with hostOut := s.hostOut ++ [Mem.read s.constMem addr] }

/-- 20 R63: a DATA byte reads as the latest store to it; the same address in CONST is another byte (R61). That a loaded byte is
appended to `hostOut` is the model's convention (log 9). -/
def Obligations.LoadAfterStoreReturnsIt : Prop :=
  ∀ (s : State) (addr x : Nat) (b : Byte), Mem.wf s.dataMem = true → addr < s.cfg.spaceSize → x < s.cfg.spaceSize →
    owned s addr = false →
    ∃ t, exec (.hostSt addr b) s = .next t ∧
      exec (.hostLd .data addr) t = .next { t with hostOut := s.hostOut ++ [b] } ∧
      (x ≠ addr → exec (.hostLd .data x) t = .next { t with hostOut := s.hostOut ++ [Mem.read s.dataMem x] }) ∧
      exec (.hostLd .const addr) t = .next { t with hostOut := s.hostOut ++ [Mem.read s.constMem addr] }

/-- STATUS (46 R245, 10 R47) returns one byte with every bit as the layout says, and changes nothing else. Where the byte goes is
the model's convention (log 9). -/
def Obligations.StatusReportsEveryBit : Prop :=
  ∀ s : State, encode s.cfg .status = [0x05#8] ∧ ∃ w : Byte, exec .status s = .next { s with hostOut := s.hostOut ++ [w] } ∧
    (w.getLsbD 0 = true ↔ s.rttyLen ≠ 0) ∧ (w.getLsbD 1 = true ↔ s.afskLen ≠ 0) ∧
    w.getLsbD 2 = s.rttyTxen ∧ w.getLsbD 3 = s.afskTxen ∧ w.getLsbD 4 = s.rttyIe ∧ w.getLsbD 5 = s.afskIe ∧
    w.getLsbD 6 = s.fbTrunc ∧ w.getLsbD 7 = false

/-- 60 R254, 20 R63, R64: a memory primitive at an address outside the space faults with the space and the address, and so does
an operation given such an address, which no command decodes to. -/
def Obligations.AccessOutsideTheSpaceFaults : Prop :=
  ∀ (s : State) (sp : Space) (addr : Nat) (b : Byte), 2 ^ s.cfg.addrBits ≤ addr →
    memRead s sp addr = .fault (.memRange sp addr) ∧ fetch s sp addr = .fault (.memRange sp addr) ∧
    memWrite s addr b = .fault (.memRange .data addr) ∧ exec (.hostLd sp addr) s = .fault (.memRange sp addr) ∧
    (owned s addr = false → exec (.hostSt addr b) s = .fault (.memRange .data addr)) ∧
    ∀ c rest, decode s.cfg c ≠ .ok (.hostLd sp addr, rest) ∧ decode s.cfg c ≠ .ok (.hostSt addr b, rest)

/-! ### Symbol clock and tick -/

/-- 40 R131: the divider's step; from 0 its `j`-th step leaves `j mod N` and is a boundary exactly when `N` divides `j`; an
enabled transmitter's tick steps it once. -/
def Obligations.SymClkBoundariesEveryN : Prop :=
  (∀ clk n : Nat, clk + 1 < n → symClk clk n = (clk + 1, false)) ∧
  (∀ clk n : Nat, ¬ clk + 1 < n → symClk clk n = (0, true)) ∧
  (∀ n j : Nat, 1 ≤ n → 1 ≤ j → (fun p : Nat × Bool => symClk p.1 n)^[j] (0, false) = (j % n, decide (j % n = 0))) ∧
  (∀ s t : State, s.rttyIe = true → exec .rttyTick s = .next t → t.rttyClk = (symClk s.rttyClk s.cfg.nRtty).1) ∧
  (∀ s t : State, s.afskIe = true → exec .afskTick s = .next t → t.afskClk = (symClk s.afskClk s.cfg.nAfsk).1)

/-- From a state of the invariant every event of the tick agent completes ("the tick agent never holds", 40 R133). -/
def Obligations.TicksComplete : Prop :=
  ∀ s : State, s.Inv → (∃ t, exec .tick s = .next t) ∧ (∃ t, exec .rttyTick s = .next t) ∧ (∃ t, exec .afskTick s = .next t)

/-- TICK (40 R133) is its RTTY half then its AFSK half; the order cannot be observed; with both enables 0 it changes nothing. -/
def Obligations.TickRunsBothHalvesInAnyOrder : Prop :=
  ∀ s : State,
    exec .tick s = Res.andThen (exec .rttyTick s) (exec .afskTick) ∧
    (∀ t, exec .tick s = .next t → Res.andThen (exec .afskTick s) (exec .rttyTick) = .next t) ∧
    (s.rttyIe = false → s.afskIe = false → exec .tick s = .next s)

/-- The halves of a tick share no register (40 R133), read memory only (20 R76), and write no builder register, gate of RTTY,
RTTY enable or mode (60 R267); the agents' streams are untouched. -/
def Obligations.TickHalvesShareNothing : Prop :=
  (∀ s t : State, exec .rttyTick s = .next t →
    sameAfsk s t ∧ sameBuilder s t ∧ sameMemory s t ∧ sameAgents s t ∧
    t.rttyTxen = s.rttyTxen ∧ t.rttyIe = s.rttyIe ∧ t.rttyMode = s.rttyMode) ∧
  (∀ s t : State, exec .afskTick s = .next t →
    sameRtty s t ∧ sameBuilder s t ∧ sameMemory s t ∧ sameAgents s t ∧ t.afskMode = s.afskMode)

/-- 60 R270, 40 R133: what a TICK does to the RTTY transmitter does not depend on the AFSK transmitter, nor the reverse. -/
def Obligations.TransmittersDoNotInterfere : Prop :=
  ∀ s u s' u' : State, sameMemory s u → exec .tick s = .next s' → exec .tick u = .next u' →
    (sameRtty s u → sameRtty s' u') ∧ (sameAfsk s u → sameAfsk s' u')

/-! ### RTTY -/

/-- RTTY.SUBMIT (41 R142): refused on a range that leaves the space, busy or not; holds while busy, the descriptor kept;
otherwise writes the three descriptor registers together and nothing else. -/
def Obligations.RttySubmitHandsOver : Prop :=
  ∀ (s : State) (mode : Space) (addr len : Nat),
    (¬ addr + len ≤ 2 ^ s.cfg.addrBits → exec (.rttySubmit mode addr len) s = .refused (.badOperand 0x10#8 .addr)) ∧
    (addr + len ≤ 2 ^ s.cfg.addrBits → s.rttyLen ≠ 0 →
      exec (.rttySubmit mode addr len) s = .next { s with hostHeld := true }) ∧
    (addr + len ≤ 2 ^ s.cfg.addrBits → s.rttyLen = 0 →
      exec (.rttySubmit mode addr len) s = .next { s with rttyPtr := addr, rttyLen := len, rttyMode := mode })

/-- RTTY.WAIT and AFSK.WAIT (41 R144, 43 R172) complete and write nothing when the transmitter is idle, and hold while it is
busy. -/
def Obligations.WaitsCompleteExactlyWhenIdle : Prop :=
  ∀ s : State,
    (s.rttyLen = 0 → exec .rttyWait s = .next s) ∧
    (s.rttyLen ≠ 0 → exec .rttyWait s = .next { s with hostHeld := true }) ∧
    (s.afskLen = 0 → exec .afskWait s = .next s) ∧
    (s.afskLen ≠ 0 → exec .afskWait s = .next { s with hostHeld := true })

/-- RTTY.ENABLE, RTTY.IRQ and AFSK.IRQ (41 R143, R145; 43 R173) write their one bit and nothing else. -/
def Obligations.EnablesWriteTheirBit : Prop :=
  ∀ (s : State) (on : Bool),
    exec (.rttyEnable on) s = .next { s with rttyTxen := on } ∧
    exec (.rttyIrq on) s = .next { s with rttyIe := on } ∧
    exec (.afskIrq on) s = .next { s with afskIe := on }

/-- RTTY.TICK (41 R146), every case of its state machine: masked, between boundaries, START idle, START with a fetch, a data
bit, the stop bit. -/
def Obligations.RttyTickFraming : Prop :=
  ∀ s : State,
    (s.rttyIe = false → exec .rttyTick s = .next s) ∧
    (s.rttyIe = true → s.rttyClk + 1 < s.cfg.nRtty → exec .rttyTick s = .next { s with rttyClk := s.rttyClk + 1 }) ∧
    (s.rttyIe = true → s.cfg.nRtty ≤ s.rttyClk + 1 →
      (s.rttyBit = 0#4 → s.rttyLen = 0 → exec .rttyTick s = .next { s with rttyClk := 0, rttyLine := true }) ∧
      (s.rttyBit = 0#4 → s.rttyLen ≠ 0 → s.rttyPtr < 2 ^ s.cfg.addrBits →
        exec .rttyTick s = .next { s with
          rttyClk := 0
          rttySr := Mem.read (match s.rttyMode with | .data => s.dataMem | .const => s.constMem) s.rttyPtr
          rttyPtr := (s.rttyPtr + 1) % 2 ^ s.cfg.addrBits
          rttyLen := s.rttyLen - 1
          rttyLine := false
          rttyBit := 1#4 }) ∧
      (1 ≤ s.rttyBit.toNat → s.rttyBit.toNat ≤ 8 →
        exec .rttyTick s = .next { s with
          rttyClk := 0
          rttyLine := s.rttySr.getLsbD 0
          rttySr := s.rttySr >>> (1 : Nat)
          rttyBit := s.rttyBit + 1#4 }) ∧
      (s.rttyBit = 9#4 → exec .rttyTick s = .next { s with rttyClk := 0, rttyLine := true, rttyBit := 0#4 }))

/-- 40 R132: between boundaries a tick of an enabled RTTY transmitter only counts, so each framing bit lasts `N_RTTY` counted
ticks; while it is masked no number of ticks changes anything. -/
def Obligations.RttyBitLastsNTicks : Prop :=
  ∀ (s : State) (k : Nat),
    (s.rttyIe = true → s.rttyClk + k < s.cfg.nRtty →
      repeatOp .rttyTick k s = .next { s with rttyClk := s.rttyClk + k }) ∧
    (s.rttyIe = true → s.rttyClk < s.cfg.nRtty → k = s.cfg.nRtty - s.rttyClk →
      repeatOp .rttyTick k s = exec .rttyTick { s with rttyClk := s.cfg.nRtty - 1 }) ∧
    (s.rttyIe = false → repeatOp .rttyTick k s = .next s)

/-- 41 R147, the line function: an enabled transmitter at START with a buffer pending puts, one bit period after another from
the next boundary on, the ten-bit characters of the buffer's bytes on the line and then mark for ever, each bit for `N_RTTY`
ticks. `RttyChar(0x41)` is the corrected example of 90 C1. -/
def Obligations.RttyLineSendsTheBuffer : Prop :=
  rttyChar 0x41#8 = [false, true, false, false, false, false, false, true, false, true] ∧
  ∀ (s : State) (j m : Nat), s.Inv → s.rttyIe = true → s.rttyBit = 0#4 → m < s.cfg.nRtty →
    ∃ t, repeatOp .tick ((s.cfg.nRtty - s.rttyClk) + j * s.cfg.nRtty + m) s = .next t ∧
      t.rttyLine = (((pendingBytes s s.rttyMode s.rttyPtr s.rttyLen).flatMap rttyChar)[j]?).getD true

/-! ### AFSK: DDS and HDLC -/

/-- AFSK.SUBMIT (43 R171): refused on a range that leaves the space, busy or not; holds while busy; otherwise writes the
descriptor, the output stage and the tick enable together and nothing else. -/
def Obligations.AfskSubmitHandsOver : Prop :=
  ∀ (s : State) (mode : Space) (addr len : Nat),
    (¬ addr + len ≤ 2 ^ s.cfg.addrBits → exec (.afskSubmit mode addr len) s = .refused (.badOperand 0x20#8 .addr)) ∧
    (addr + len ≤ 2 ^ s.cfg.addrBits → s.afskLen ≠ 0 →
      exec (.afskSubmit mode addr len) s = .next { s with hostHeld := true }) ∧
    (addr + len ≤ 2 ^ s.cfg.addrBits → s.afskLen = 0 →
      exec (.afskSubmit mode addr len) s =
        .next { s with afskPtr := addr, afskLen := len, afskMode := mode, afskTxen := true, afskIe := true })

/-- AFSK.TICK between boundaries (43 R174) runs DdsStep (42 R161) and counts; masked it changes nothing. The sample is the low
`SAMPLE_BITS` bits of the free table (log 4). -/
def Obligations.AfskTickBetweenBoundaries : Prop :=
  ∀ s : State,
    (s.afskIe = false → exec .afskTick s = .next s) ∧
    (s.afskIe = true → s.afskClk + 1 < s.cfg.nAfsk →
      exec .afskTick s = .next { s with
        afskSample := Config.waveLut ((s.ddsPhase / 2 ^ (s.cfg.phaseBits - s.cfg.lutBits)) % 2 ^ s.cfg.lutBits) %
          2 ^ s.cfg.sampleBits
        ddsPhase := (s.ddsPhase + if s.ddsTone then s.cfg.stepSpace else s.cfg.stepMark) % 2 ^ s.cfg.phaseBits
        afskClk := s.afskClk + 1 })

/-- 42 R165, within a bit period: `k` ticks advance the phase by `k` steps of the tone, modulo `2 ^ PHASE_BITS`, and the last
sample is the table entry of the phase one step before. -/
def Obligations.DdsClosedForm : Prop :=
  ∀ (s : State) (k : Nat), s.ddsPhase < 2 ^ s.cfg.phaseBits → s.afskIe = true → s.afskClk + k < s.cfg.nAfsk →
    repeatOp .afskTick k s = .next { s with
      afskClk := s.afskClk + k
      ddsPhase := (s.ddsPhase + k * if s.ddsTone then s.cfg.stepSpace else s.cfg.stepMark) % 2 ^ s.cfg.phaseBits
      afskSample :=
        if k = 0 then s.afskSample
        else Config.waveLut
          (((s.ddsPhase + (k - 1) * if s.ddsTone then s.cfg.stepSpace else s.cfg.stepMark) % 2 ^ s.cfg.phaseBits) /
            2 ^ (s.cfg.phaseBits - s.cfg.lutBits) % 2 ^ s.cfg.lutBits) % 2 ^ s.cfg.sampleBits }

/-- 42 R164: outside RESET the phase is written only by the DDS advance of a tick, by the step of the tone before the tick, or
by a shutdown, to 0 with the output stage off. -/
def Obligations.PhaseIsContinuous : Prop :=
  ∀ (i : Instr) (s t : State), i ≠ .reset → exec i s = .next t →
    t.ddsPhase = s.ddsPhase ∨
    (s.afskIe = true ∧
      t.ddsPhase = (s.ddsPhase + if s.ddsTone then s.cfg.stepSpace else s.cfg.stepMark) % 2 ^ s.cfg.phaseBits) ∨
    (s.afskIe = true ∧ t.ddsPhase = 0 ∧ t.afskTxen = false ∧ t.afskIe = false)

/-- 43 R175: a run of five takes the whole bit period for the stuffed 0: the tone toggles, the count clears, no byte is loaded
and no bit of the current byte is sent. -/
def Obligations.StuffedZeroTakesABitPeriod : Prop :=
  ∀ s : State, s.afskIe = true → s.cfg.nAfsk ≤ s.afskClk + 1 → s.hdlcOnes = 5#3 →
    exec .afskTick s = .next { ddsStep s with afskClk := 0, ddsTone := !s.ddsTone, hdlcOnes := 0#3 }

/-- 43 R176, R180: at a byte boundary with the rest counter at 1 and the buffer empty the transmitter shuts down. The
registers written are exactly those of R180 ("the spec's own reading of idle values", D13, D32), at their reset values; `hdlc_sr`, the descriptor and the sample are not written by
it, and no bit is emitted. -/
def Obligations.ByteBoundaryShutsDown : Prop :=
  ∀ s : State, s.afskIe = true → s.cfg.nAfsk ≤ s.afskClk + 1 → s.hdlcOnes ≠ 5#3 → s.hdlcBit = 7#3 → s.hdlcRest = 1#8 →
    s.afskLen = 0 →
    exec .afskTick s = .next { ddsStep s with
      afskTxen := false
      afskIe := false
      ddsPhase := 0
      afskClk := 0
      ddsTone := false
      hdlcRest := BitVec.ofNat 8 (10 + s.cfg.restCount)
      hdlcBit := 7#3
      hdlcOnes := 0#3
      hdlcStuff := false }

/-- 43 R176, R177, R179: at a byte boundary with the rest counter above `REST_COUNT`, or the buffer empty, and not at 1, a flag
is loaded and its first bit, a 0, toggles the tone. -/
def Obligations.ByteBoundaryLoadsFlag : Prop :=
  ∀ s : State, s.afskIe = true → s.cfg.nAfsk ≤ s.afskClk + 1 → s.hdlcOnes ≠ 5#3 → s.hdlcBit = 7#3 → 2 ≤ s.hdlcRest.toNat →
    (s.cfg.restCount < s.hdlcRest.toNat ∨ s.afskLen = 0) →
    exec .afskTick s = .next { ddsStep s with
      afskClk := 0
      hdlcRest := s.hdlcRest - 1#8
      hdlcSr := 0x3F#8
      hdlcStuff := false
      hdlcOnes := 0#3
      hdlcBit := 0#3
      ddsTone := !s.ddsTone }

/-- 43 R176, R178, R179: at a byte boundary with the rest counter at or below `REST_COUNT` and the buffer not empty, a content
byte is fetched, the descriptor moves on, the last byte reloads the rest counter, and the byte's bit 0 is sent: a 1 holds the
tone and is counted, a 0 toggles it and clears the count. -/
def Obligations.ByteBoundaryFetchesContent : Prop :=
  ∀ (s : State) (b : Byte), s.afskIe = true → s.cfg.nAfsk ≤ s.afskClk + 1 → s.hdlcOnes ≠ 5#3 → s.hdlcBit = 7#3 →
    s.hdlcRest.toNat ≤ s.cfg.restCount → s.afskLen ≠ 0 → s.afskPtr < 2 ^ s.cfg.addrBits →
    b = Mem.read (match s.afskMode with | .data => s.dataMem | .const => s.constMem) s.afskPtr →
    exec .afskTick s = .next { ddsStep s with
      afskClk := 0
      afskPtr := (s.afskPtr + 1) % 2 ^ s.cfg.addrBits
      afskLen := s.afskLen - 1
      hdlcRest := if s.afskLen = 1 then BitVec.ofNat 8 (s.cfg.restCount + 2) else s.hdlcRest
      hdlcStuff := true
      hdlcBit := 0#3
      hdlcSr := b >>> (1 : Nat)
      ddsTone := if b.getLsbD 0 then s.ddsTone else !s.ddsTone
      hdlcOnes := if b.getLsbD 0 then s.hdlcOnes + 1#3 else 0#3 }

/-- 43 R175, R179: within a byte the next bit is sent; 1s are counted only while stuffing is active. -/
def Obligations.MidByteBitIsSent : Prop :=
  ∀ s : State, s.afskIe = true → s.cfg.nAfsk ≤ s.afskClk + 1 → s.hdlcOnes ≠ 5#3 → s.hdlcBit ≠ 7#3 →
    exec .afskTick s = .next { ddsStep s with
      afskClk := 0
      hdlcBit := s.hdlcBit + 1#3
      hdlcSr := s.hdlcSr >>> (1 : Nat)
      ddsTone := if s.hdlcSr.getLsbD 0 then s.ddsTone else !s.ddsTone
      hdlcOnes := if s.hdlcSr.getLsbD 0 then (if s.hdlcStuff then s.hdlcOnes + 1#3 else s.hdlcOnes) else 0#3 }

/-- 43 R183: the stuffed bits hold no six 1s in a row, every five 1s in a row have a 0 after them, at the end of the content
too, and removing each 0 that follows five 1s gives the content back. -/
def Obligations.StuffingIsReversibleAndFlagFree : Prop :=
  ∀ xs : List Bool, ¬ List.replicate 6 true <:+: stuff xs ∧ unstuffFrom 0 (stuff xs) = xs ∧
    ∀ before after, stuff xs = before ++ List.replicate 5 true ++ after → after.head? = some false

/-- 43 R182, R184, R188, the line function of the HDLC framer: from the shut-down registers with the tick enabled and a buffer
pending, ticks alone put on the tone, after `N_AFSK` ticks of mark, the transition encoding of ten flags, the stuffed content
and the trailing flags, each line bit for `N_AFSK` ticks; the boundary after the last line bit shuts the transmitter down. The
number of trailing flags is the spec's decision D13. -/
def Obligations.HdlcLineSendsTheFrame : Prop :=
  ∀ (s : State) (line : List Bool), s.Inv → s.afskIe = true → s.AfskIdle → s.afskLen ≠ 0 →
    line = lineBits s.cfg (pendingBytes s s.afskMode s.afskPtr s.afskLen) →
    (∀ m, m < s.cfg.nAfsk → ∃ t, repeatOp .tick m s = .next t ∧ t.ddsTone = false) ∧
    (∀ j m, j < line.length → m < s.cfg.nAfsk →
      ∃ t, repeatOp .tick ((j + 1) * s.cfg.nAfsk + m) s = .next t ∧ (nrzi false line)[j]? = some t.ddsTone) ∧
    (∃ t, repeatOp .tick ((line.length + 1) * s.cfg.nAfsk) s = .next t ∧ t.PhaseOff ∧ t.afskTxen = false ∧ t.afskLen = 0)

/-- 43 R185: from the shut-down registers with the tick enabled and nothing pending, the framer sends
`PREAMBLE_FLAGS + REST_COUNT - 1` flags and shuts down. -/
def Obligations.RestStateSendsFlagsOnly : Prop :=
  ∀ (s : State) (line : List Bool), s.Inv → s.afskIe = true → s.AfskIdle → s.afskLen = 0 →
    line = flagRun (10 + s.cfg.restCount - 1) →
    (∀ j m, j < line.length → m < s.cfg.nAfsk →
      ∃ t, repeatOp .tick ((j + 1) * s.cfg.nAfsk + m) s = .next t ∧ (nrzi false line)[j]? = some t.ddsTone) ∧
    (∃ t, repeatOp .tick ((line.length + 1) * s.cfg.nAfsk) s = .next t ∧ t.PhaseOff ∧ t.afskTxen = false ∧ t.afskLen = 0)

/-- 60 R256, 70 R292: a host that waits for, or submits to, a busy transmitter whose tick is masked holds for ever (41 R142, R144;
43 R171, R172): however many steps the machine takes, in whatever order, the command is still at the head of the stream and no
register of that transmitter has changed. That the command stays in `hostIn` is the model's convention (log 8). -/
def Obligations.MaskedBusyTransmitterHangsTheHost : Prop :=
  ∀ (n : Nat) (s : State) (i : Instr) (rest : List Byte), s.Inv → decodeHost s.cfg s.hostIn = .ok (i, rest) →
    (s.rttyLen ≠ 0 → s.rttyIe = false →
      (i = .rttyWait ∨ ∃ mode addr len, i = .rttySubmit mode addr len ∧ addr + len ≤ 2 ^ s.cfg.addrBits) →
      ∃ t : State, stepTimes n s = .next t ∧ t.hostIn = s.hostIn ∧ sameRtty s t) ∧
    (s.afskLen ≠ 0 → s.afskIe = false →
      (i = .afskWait ∨ ∃ mode addr len, i = .afskSubmit mode addr len ∧ addr + len ≤ 2 ^ s.cfg.addrBits) →
      ∃ t : State, stepTimes n s = .next t ∧ t.hostIn = s.hostIn ∧ sameAfsk s t)

/-! ### CRC and frame builder -/

/-- CRC.INIT (44 R202) seeds the accumulator; CRC.FCS (44 R204) returns the complemented low byte, then the complemented high
byte, and changes nothing else. Where the bytes go is the model's convention (log 9). -/
def Obligations.CrcInitAndFcs : Prop :=
  (∀ s : State, encode s.cfg .crcInit = [0x30#8] ∧ exec .crcInit s = .next { s with crc := 0xFFFF#16 }) ∧
  (∀ s : State, encode s.cfg .crcFcs = [0x32#8] ∧ ∃ lo hi : Byte, exec .crcFcs s = .next { s with hostOut := s.hostOut ++ [lo, hi] } ∧
    lo.toNat = 255 - s.crc.toNat % 256 ∧ hi.toNat = 255 - s.crc.toNat / 256) ∧
  fcsBytes 0xFFFF#16 = [0x00#8, 0x00#8] ∧ fcsBytes 0x5C0A#16 = [0xF5#8, 0xA3#8]

/-- CRC.BYTE (44 R203) is CrcUpdate (R201): the byte is xored in at the low end, then eight times the value is shifted right
and, when the bit shifted out was 1, xored with 0x8408. For each byte it is a bijection of the accumulator. -/
def Obligations.CrcByteUpdatesBijectively : Prop :=
  (∀ (s : State) (b : Byte), exec (.crcByte b) s = .next { s with
    crc := (fun c : Word16 => if c.getLsbD 0 then (c >>> (1 : Nat)) ^^^ 0x8408#16 else c >>> (1 : Nat))^[8]
      (s.crc ^^^ b.setWidth 16) }) ∧
  (∀ b : Byte, Function.Bijective fun c : Word16 => crcUpdate c b) ∧
  (0xFFFF#16 ^^^ (0x41#8 : Byte).setWidth 16 = 0xFFBE#16) ∧
  (List.range 9).map (fun n => crcRounds n 0xFFBE#16) = [0xFFBE#16, 0x7FDF#16, 0xBBE7#16, 0xD9FB#16, 0xE8F5#16, 0xF072#16,
    0x7839#16, 0xB814#16, 0x5C0A#16] ∧
  crcUpdate 0xFFFF#16 0x41#8 = 0x5C0A#16

/-- AddrField (44 R207; 30 R109, R110): seven bytes, the callsign at the left and spaces at the right, each shifted left by
one, then the SSID byte, its bit 0 set exactly on the last field. -/
def Obligations.AddressFieldLayout : Prop :=
  ∀ (k : Call) (ssid : Byte) (last : Bool), k.WF →
    (addrField k ssid last).length = 7 ∧
    (∀ i, i < k.n.toNat → (addrField k ssid last)[i]? = (k.chars[i]?).map fun ch : Byte => ch <<< (1 : Nat)) ∧
    (∀ i, k.n.toNat ≤ i → i < 6 → (addrField k ssid last)[i]? = some 0x40#8) ∧
    (∃ b : Byte, (addrField k ssid last)[6]? = some b ∧
      b.toNat = (0x30 + ssid.toNat) * 2 % 256 + (if last then 1 else 0))

/-- Frame (44 R208; 30 R108, R111 to R113): every part of the frame in its place, for each of the four path combinations, with
the truncation mark and the CRC. -/
def Obligations.FrameLayout : Prop :=
  ∀ (c : Config) (a : BuildArgs) (payload : List Byte) (k m : Nat), c.WF → a.dcall.WF → a.scall.WF → a.p1call.WF →
    a.p2call.WF → k = 2 + a.p1.toNat + a.p2.toNat → m = min payload.length (c.frameCap - 7 * k - 4) →
    (frameBytes c a payload).length = 7 * k + 4 + m ∧ 7 * k + 4 + m ≤ c.frameCap ∧
    frameTrunc c a payload = decide (c.frameCap - 7 * k - 4 < payload.length) ∧
    frameCrc c a payload = crcBytes ((frameBytes c a payload).take (7 * k + 2 + m)) ∧
    (∀ i, i < 7 → (frameBytes c a payload)[i]? = (addrField a.dcall a.dssid false)[i]?) ∧
    (∀ i, i < 7 → (frameBytes c a payload)[7 + i]? = (addrField a.scall a.sssid (!a.p1 && !a.p2))[i]?) ∧
    (a.p1 = true → ∀ i, i < 7 → (frameBytes c a payload)[14 + i]? = (addrField a.p1call a.p1ttl (!a.p2))[i]?) ∧
    (a.p2 = true → ∀ i, i < 7 → (frameBytes c a payload)[7 * (k - 1) + i]? = (addrField a.p2call a.p2ttl true)[i]?) ∧
    (frameBytes c a payload)[7 * k]? = some 0x03#8 ∧ (frameBytes c a payload)[7 * k + 1]? = some 0xF0#8 ∧
    (∀ j, j < m → (frameBytes c a payload)[7 * k + 2 + j]? = payload[j]?) ∧
    (frameBytes c a payload)[7 * k + 2 + m]? =
      some (~~~((crcBytes ((frameBytes c a payload).take (7 * k + 2 + m))).setWidth 8)) ∧
    (frameBytes c a payload)[7 * k + 3 + m]? =
      some (~~~((crcBytes ((frameBytes c a payload).take (7 * k + 2 + m)) >>> (8 : Nat)).setWidth 8))

/-- FB.BUILD (44 R209) with admitted operands and no owned byte in the frame's place: the frame of the payload as it stood
before the step is in DATA from `dst` on, every other byte is as it was, `crc`, `fb_len` and `fb_trunc` are the frame's, and
nothing else changes. -/
def Obligations.FbBuildWritesTheFrame : Prop :=
  ∀ (s : State) (a : BuildArgs) (payload frame : List Byte), s.cfg.WF → Mem.wf s.dataMem = true →
    a.dcall.WF → a.scall.WF → a.p1call.WF → a.p2call.WF →
    a.dst + s.cfg.frameCap ≤ 2 ^ s.cfg.addrBits → a.paddr + a.plen ≤ 2 ^ s.cfg.addrBits →
    payload = (List.range a.plen).map
      (fun j => Mem.read (match a.pmode with | .data => s.dataMem | .const => s.constMem) (a.paddr + j)) →
    frame = frameBytes s.cfg a payload → Unowned s a.dst frame.length →
    ∃ t, exec (.fbBuild a) s = .next t ∧
      t = { s with
        dataMem := t.dataMem
        crc := crcBytes (frame.take (frame.length - 2))
        fbLen := frame.length
        fbTrunc := decide (s.cfg.frameCap - 7 * (2 + a.p1.toNat + a.p2.toNat) - 4 < a.plen) } ∧
      ∀ x, Mem.read t.dataMem x =
        if a.dst ≤ x ∧ x < a.dst + frame.length then (frame[x - a.dst]?).getD 0#8 else Mem.read s.dataMem x

/-- 44 R209 with 60 R252, R253, R259: the refusals of FB.BUILD, the first that applies: a callsign too long in format order, the
range of `dst`, the range of `paddr`, then the lowest owned byte of the frame's place. -/
def Obligations.FbBuildRefusesInOrder : Prop :=
  ∀ (s : State) (a : BuildArgs),
    (¬ a.dcall.WF → exec (.fbBuild a) s = .refused (.badOperand 0x38#8 .dcall)) ∧
    (a.dcall.WF → ¬ a.scall.WF → exec (.fbBuild a) s = .refused (.badOperand 0x38#8 .scall)) ∧
    (a.dcall.WF → a.scall.WF → ¬ a.p1call.WF → exec (.fbBuild a) s = .refused (.badOperand 0x38#8 .p1call)) ∧
    (a.dcall.WF → a.scall.WF → a.p1call.WF → ¬ a.p2call.WF →
      exec (.fbBuild a) s = .refused (.badOperand 0x38#8 .p2call)) ∧
    (a.dcall.WF → a.scall.WF → a.p1call.WF → a.p2call.WF →
      (2 ^ s.cfg.addrBits < a.dst + s.cfg.frameCap → exec (.fbBuild a) s = .refused (.badOperand 0x38#8 .dst)) ∧
      (a.dst + s.cfg.frameCap ≤ 2 ^ s.cfg.addrBits → 2 ^ s.cfg.addrBits < a.paddr + a.plen →
        exec (.fbBuild a) s = .refused (.badOperand 0x38#8 .paddr)) ∧
      (∀ x, a.dst + s.cfg.frameCap ≤ 2 ^ s.cfg.addrBits → a.paddr + a.plen ≤ 2 ^ s.cfg.addrBits →
        a.dst ≤ x → x < a.dst + (frameBytes s.cfg a (pendingBytes s a.pmode a.paddr a.plen)).length →
        owned s x = true → (∀ y, a.dst ≤ y → y < x → owned s y = false) →
        exec (.fbBuild a) s = .refused (.ownedBufferWrite x)))

/-- 44 R212: the length of every frame built, and when its payload was cut. -/
def Obligations.FrameLengthAndTruncation : Prop :=
  (∀ (s t : State) (a : BuildArgs) (k : Nat), s.cfg.WF → exec (.fbBuild a) s = .next t → k = 2 + a.p1.toNat + a.p2.toNat →
    t.fbLen = 7 * k + 4 + min a.plen (s.cfg.frameCap - 7 * k - 4) ∧ 18 ≤ t.fbLen ∧ t.fbLen ≤ s.cfg.frameCap ∧
    (t.fbTrunc = true ↔ s.cfg.frameCap - 7 * k - 4 < a.plen)) ∧
  Config.ref.frameCap - 7 * 2 - 4 = 82 ∧ Config.ref.frameCap - 7 * 3 - 4 = 75 ∧ Config.ref.frameCap - 7 * 4 - 4 = 68

/-- 44 R205: the two trailing bytes of every frame built are the complemented CRC of all preceding bytes, low byte first; the
known values; and a byte sequence followed by its own CRC bytes has CRC 0xF0B8. -/
def Obligations.FramesEndInTheirCrc : Prop :=
  (∀ (s t : State) (a : BuildArgs) (body : List Byte), s.cfg.WF → Mem.wf s.dataMem = true → exec (.fbBuild a) s = .next t →
    body = pendingBytes t .data a.dst (t.fbLen - 2) →
    t.crc = crcBytes body ∧
    Mem.read t.dataMem (a.dst + t.fbLen - 2) = ~~~((crcBytes body).setWidth 8) ∧
    Mem.read t.dataMem (a.dst + t.fbLen - 1) = ~~~((crcBytes body >>> (8 : Nat)).setWidth 8)) ∧
  crcBytes [0x31#8, 0x32#8, 0x33#8, 0x34#8, 0x35#8, 0x36#8, 0x37#8, 0x38#8, 0x39#8] = 0x6F91#16 ∧
  crcBytes [] = 0xFFFF#16 ∧ crcBytes [0x00#8] = 0x0F87#16 ∧ crcBytes [0xFF#8] = 0x00FF#16 ∧
  ∀ bs : List Byte, crcBytes (bs ++ fcsBytes (crcBytes bs)) = 0xF0B8#16

/-- FB.LEN (44 R211) returns `fb_len` in `ceil(LEN_BITS / 8)` bytes, most significant first, and changes nothing else; after
RESET the length is 0. Where the bytes go is the model's convention (log 9). -/
def Obligations.FbLenReturnsLength : Prop :=
  (∀ s : State, s.fbLen < 2 ^ s.cfg.lenBits → encode s.cfg .fbLen = [0x39#8] ∧
    ∃ bs : List Byte, exec .fbLen s = .next { s with hostOut := s.hostOut ++ bs } ∧ bs.length = (s.cfg.lenBits + 7) / 8 ∧
      bs.foldl (fun acc b => acc * 256 + b.toNat) 0 = s.fbLen) ∧
  (∀ s t : State, exec .reset s = .next t → t.fbLen = 0) ∧
  (∀ s : State, s.cfg = Config.ref → s.fbLen = 24 → exec .fbLen s = .next { s with hostOut := s.hostOut ++ [0x00#8, 0x18#8] })

/-! ### Base-91 -/

/-- B91.ENC (45 R231): `width` digits in DATA from `dst` up, the most significant at `dst`, every other byte as it was and no
register changed; refused on a range that leaves the space, then on the lowest owned byte. -/
def Obligations.B91EncWritesDigits : Prop :=
  ∀ (s : State) (value : Nat) (width : Byte) (dst : Nat), Mem.wf s.dataMem = true →
    encode s.cfg (.b91Enc value width dst) =
      0x40#8 :: (writeNat s.cfg.b91ValueBits value ++ [width] ++ writeNat s.cfg.addrBits dst) ∧
    (2 ^ s.cfg.addrBits < dst + width.toNat → exec (.b91Enc value width dst) s = .refused (.badOperand 0x40#8 .dst)) ∧
    (∀ x, dst + width.toNat ≤ 2 ^ s.cfg.addrBits → dst ≤ x → x < dst + width.toNat → owned s x = true →
      (∀ y, dst ≤ y → y < x → owned s y = false) →
      exec (.b91Enc value width dst) s = .refused (.ownedBufferWrite x)) ∧
    (dst + width.toNat ≤ 2 ^ s.cfg.addrBits → Unowned s dst width.toNat →
      ∃ t, exec (.b91Enc value width dst) s = .next t ∧ t = { s with dataMem := t.dataMem } ∧
        ∀ x, Mem.read t.dataMem x =
          if dst ≤ x ∧ x < dst + width.toNat then BitVec.ofNat 8 (value / 91 ^ (width.toNat - 1 - (x - dst)) % 91 + 33)
          else Mem.read s.dataMem x)

/-- 45 R230: the digits, the most significant first; every byte lies in ASCII 33 to 123. -/
def Obligations.B91DigitsMostSignificantFirst : Prop :=
  ∀ v w : Nat, (b91 v w).length = w ∧
    (∀ i, i < w → (b91 v w)[i]? = some (BitVec.ofNat 8 (v / 91 ^ (w - 1 - i) % 91 + 33))) ∧
    ∀ b ∈ b91 v w, 33 ≤ b.toNat ∧ b.toNat ≤ 123

/-- 45 R232: the digits, each weighted by its power of 91, give the value modulo `91^w`, hence the value where it fits. -/
def Obligations.B91RoundTrip : Prop :=
  ∀ v w d : Nat,
    d = ((List.range w).map fun i => ((((b91 v w)[i]?).getD 0#8).toNat - 33) * 91 ^ (w - 1 - i)).sum →
    d = v % 91 ^ w ∧ (v < 91 ^ w → d = v) ∧
    (b91 v w).foldl (fun acc b => acc * 91 + (b.toNat - 33)) 0 = d

/-! ### Rules over all operations -/

/-- 20 R74: no operation of either agent changes a DATA byte that a busy transmitter has not yet fetched. -/
def Obligations.OwnedBytesNeverChange : Prop :=
  ∀ (i : Instr) (s t : State) (x : Nat), Mem.wf s.dataMem = true → owned s x = true → exec i s = .next t →
    Mem.read t.dataMem x = Mem.read s.dataMem x

/-- 41 R142 (e), 43 R171 (d): no operation of the host but RESET changes the descriptor of a busy transmitter. -/
def Obligations.BusyDescriptorIsNeverOverwritten : Prop :=
  ∀ (i : Instr) (s t : State), i.agent = .host → i ≠ .reset → exec i s = .next t →
    (s.rttyLen ≠ 0 → t.rttyPtr = s.rttyPtr ∧ t.rttyLen = s.rttyLen ∧ t.rttyMode = s.rttyMode) ∧
    (s.afskLen ≠ 0 → t.afskPtr = s.afskPtr ∧ t.afskLen = s.afskLen ∧ t.afskMode = s.afskMode)

/-- 20 R61, R76: CONST and the configuration never change, and only HOST.ST, FB.BUILD and B91.ENC change DATA. -/
def Obligations.OnlyStoresChangeData : Prop :=
  ∀ (i : Instr) (s t : State), exec i s = .next t →
    t.constMem = s.constMem ∧ t.cfg = s.cfg ∧
    ((∀ addr b, i ≠ .hostSt addr b) → (∀ a, i ≠ .fbBuild a) → (∀ v w d, i ≠ .b91Enc v w d) → t.dataMem = s.dataMem)

/-- 46 R244: no operation of the host but RESET writes a clock, a sequencer, a shift register, the stuffing and rest counters,
the DDS registers, the sample or the RTTY line. -/
def Obligations.HostCannotTouchSequencers : Prop :=
  ∀ (i : Instr) (s t : State), i.agent = .host → i ≠ .reset → exec i s = .next t →
    t.rttyClk = s.rttyClk ∧ t.rttyBit = s.rttyBit ∧ t.rttySr = s.rttySr ∧ t.rttyLine = s.rttyLine ∧
    t.afskClk = s.afskClk ∧ t.ddsPhase = s.ddsPhase ∧ t.ddsTone = s.ddsTone ∧ t.afskSample = s.afskSample ∧
    t.hdlcSr = s.hdlcSr ∧ t.hdlcBit = s.hdlcBit ∧ t.hdlcOnes = s.hdlcOnes ∧ t.hdlcStuff = s.hdlcStuff ∧
    t.hdlcRest = s.hdlcRest

/-- 70 R281: a register whose reset value is unspecified is not read before it is written. Two states that agree on every register
but such ones, as far as these may be unwritten, run every operation to outcomes that agree likewise. -/
def Obligations.UnspecifiedRegistersAreNotRead : Prop :=
  ∀ (i : Instr) (s t : State), AgreeWhereWritten s t →
    (∀ s', exec i s = .next s' → ∃ t', exec i t = .next t' ∧ AgreeWhereWritten s' t') ∧
    (∀ f, exec i s = .fault f → exec i t = .fault f) ∧
    (∀ r, exec i s = .refused r → exec i t = .refused r)
end

