-- ==== Sys2Proof/Laws/Codec.lean ====
section
/-! SUPPORT. Big-endian fields and the field readers: what each reads back from what its writer wrote, and what bytes a
successful read had before it (30_encoding.md R92 to R94). -/

namespace Sys2Proof

@[simp] theorem toBytesBE_length (k v : Nat) : (toBytesBE k v).length = k := by
  induction k generalizing v with
  | zero => rfl
  | succ k ih => simp [toBytesBE, ih]

theorem ofBytesBE_append_byte (bs : List Byte) (b : Byte) : ofBytesBE (bs ++ [b]) = ofBytesBE bs * 256 + b.toNat := by
  simp [ofBytesBE]

theorem ofBytesBE_toBytesBE (k v : Nat) : ofBytesBE (toBytesBE k v) = v % 256 ^ k := by
  induction k generalizing v with
  | zero => simp [toBytesBE, ofBytesBE, Nat.mod_one]
  | succ k ih =>
    rw [toBytesBE, ofBytesBE_append_byte, ih, BitVec.toNat_ofNat]
    have h := Nat.mod_mul (x := v) (a := 256) (b := 256 ^ k)
    rw [show 256 ^ (k + 1) = 256 * 256 ^ k from Nat.pow_add_one', h]
    omega

theorem ofBytesBE_lt (bs : List Byte) : ofBytesBE bs < 256 ^ bs.length := by
  induction bs using List.reverseRecOn with
  | nil => simp [ofBytesBE]
  | append_singleton bs b ih =>
    rw [ofBytesBE_append_byte, List.length_append, List.length_singleton, Nat.pow_succ]
    have := b.isLt
    omega

/-- The bytes of a big-endian value are determined by it. -/
theorem toBytesBE_ofBytesBE (bs : List Byte) : toBytesBE bs.length (ofBytesBE bs) = bs := by
  induction bs using List.reverseRecOn with
  | nil => rfl
  | append_singleton bs b ih =>
    rw [ofBytesBE_append_byte, List.length_append, List.length_singleton, toBytesBE]
    have hb := b.isLt
    rw [show (ofBytesBE bs * 256 + b.toNat) / 256 = ofBytesBE bs by omega, ih]
    congr 2
    apply BitVec.eq_of_toNat_eq
    rw [BitVec.toNat_ofNat]
    omega

theorem two_pow_le_fieldBytes (w : Nat) : 2 ^ w ≤ 256 ^ fieldBytes w := by
  rw [show (256 : Nat) = 2 ^ 8 from rfl, ← Nat.pow_mul]
  apply Nat.pow_le_pow_right (by decide)
  unfold fieldBytes
  omega

@[simp] theorem writeNat_length (w v : Nat) : (writeNat w v).length = fieldBytes w := toBytesBE_length _ _

theorem readNat_writeNat {op : Byte} {f : Field} {w v : Nat} (rest : List Byte) (h : v < 2 ^ w) :
    readNat op f w (writeNat w v ++ rest) = .ok (v, rest) := by
  have hv : ofBytesBE (writeNat w v) = v := by
    rw [writeNat, ofBytesBE_toBytesBE, Nat.mod_eq_of_lt (Nat.lt_of_lt_of_le h (two_pow_le_fieldBytes w))]
  have ht : (writeNat w v ++ rest).take (fieldBytes w) = writeNat w v := by
    rw [List.take_append_of_le_length (by simp), List.take_of_length_le (by simp)]
  have hd : (writeNat w v ++ rest).drop (fieldBytes w) = rest := by
    rw [← writeNat_length w v, List.drop_left]
  unfold readNat
  rw [if_neg (by simp), ht, hv, if_pos h, hd]

/-- A number read was in its width, and its bytes are the ones the encoder writes. -/
theorem readNat_eq_ok {op : Byte} {f : Field} {w v : Nat} {bs rest : List Byte} (h : readNat op f w bs = .ok (v, rest)) :
    v < 2 ^ w ∧ bs = writeNat w v ++ rest := by
  unfold readNat at h
  split at h
  · cases h
  · next hl =>
    split at h
    · next hv =>
      cases h
      refine ⟨hv, ?_⟩
      have e : (bs.take (fieldBytes w)).length = fieldBytes w := by rw [List.length_take]; omega
      have hw := toBytesBE_ofBytesBE (bs.take (fieldBytes w))
      rw [e] at hw
      rw [writeNat, hw, List.take_append_drop]
    · cases h

theorem readByte_cons (op : Byte) (f : Field) (b : Byte) (rest : List Byte) :
    readByte op f (b :: rest) = .ok (b, rest) := rfl

theorem readByte_eq_ok {op : Byte} {f : Field} {b : Byte} {bs rest : List Byte} (h : readByte op f bs = .ok (b, rest)) :
    bs = b :: rest := by
  cases bs with
  | nil => cases h
  | cons c cs => cases h; rfl

theorem writeOn_eq (on : Bool) : writeOn on = writeNat 1 on.toNat := by cases on <;> rfl

theorem writeMode_eq (m : Space) : writeMode m = writeNat 1 (if m = .const then 1 else 0) := by cases m <;> rfl

theorem readOn_writeOn {op : Byte} {f : Field} (on : Bool) (rest : List Byte) :
    readOn op f (writeOn on ++ rest) = .ok (on, rest) := by
  rw [writeOn_eq, readOn, readNat_writeNat rest (by cases on <;> decide)]
  cases on <;> rfl

theorem readOn_eq_ok {op : Byte} {f : Field} {on : Bool} {bs rest : List Byte} (h : readOn op f bs = .ok (on, rest)) :
    bs = writeOn on ++ rest := by
  unfold readOn at h
  cases hr : readNat op f 1 bs with
  | error e => rw [hr] at h; cases h
  | ok p =>
    obtain ⟨v, r⟩ := p
    rw [hr] at h
    obtain ⟨hv, hb⟩ := readNat_eq_ok hr
    cases h
    rw [hb, writeOn_eq]
    obtain rfl | rfl : v = 0 ∨ v = 1 := by omega
    all_goals rfl

theorem readMode_writeMode {op : Byte} {f : Field} (m : Space) (rest : List Byte) :
    readMode op f (writeMode m ++ rest) = .ok (m, rest) := by
  rw [writeMode_eq, readMode, readNat_writeNat rest (by cases m <;> decide)]
  cases m <;> rfl

theorem readMode_eq_ok {op : Byte} {f : Field} {m : Space} {bs rest : List Byte} (h : readMode op f bs = .ok (m, rest)) :
    bs = writeMode m ++ rest := by
  unfold readMode at h
  cases hr : readNat op f 1 bs with
  | error e => rw [hr] at h; cases h
  | ok p =>
    obtain ⟨v, r⟩ := p
    rw [hr] at h
    obtain ⟨hv, hb⟩ := readNat_eq_ok hr
    cases h
    rw [hb, writeMode_eq]
    obtain rfl | rfl : v = 0 ∨ v = 1 := by omega
    all_goals rfl

theorem readCall_writeCall {op : Byte} {f : Field} {k : Call} (rest : List Byte) (h : k.WF) :
    readCall op f (writeCall k ++ rest) = .ok (k, rest) := by
  simp only [writeCall, List.cons_append, List.nil_append, readCall]
  rw [if_pos h]

theorem readCall_eq_ok {op : Byte} {f : Field} {k : Call} {bs rest : List Byte} (h : readCall op f bs = .ok (k, rest)) :
    k.WF ∧ bs = writeCall k ++ rest := by
  unfold readCall at h
  split at h
  · split at h
    · next hn => cases h; exact ⟨hn, rfl⟩
    · cases h
  · cases h

/-! ### Cut and malformed fields (60_exceptions.md R252) -/

theorem writeMode_length (m : Space) : (writeMode m).length = 1 := by cases m <;> rfl

theorem readNat_take {op : Byte} {f : Field} {w v m : Nat} {rest : List Byte} (h : v < 2 ^ w) :
    readNat op f w ((writeNat w v ++ rest).take m) =
      if m < fieldBytes w then .error (.badOperand op f) else .ok (v, rest.take (m - fieldBytes w)) := by
  split
  · next hm => unfold readNat; rw [if_pos (by rw [List.length_take]; omega)]
  · next hm =>
    rw [List.take_append, List.take_of_length_le (by simp; omega), writeNat_length, readNat_writeNat _ h]

theorem readByte_take {op : Byte} {f : Field} {b : Byte} {m : Nat} {rest : List Byte} :
    readByte op f ((b :: rest).take m) =
      if m < 1 then .error (.badOperand op f) else .ok (b, rest.take (m - 1)) := by
  cases m <;> rfl

theorem readOn_take {op : Byte} {f : Field} {on : Bool} {m : Nat} {rest : List Byte} :
    readOn op f ((writeOn on ++ rest).take m) =
      if m < 1 then .error (.badOperand op f) else .ok (on, rest.take (m - 1)) := by
  cases m with
  | zero => rfl
  | succ m => rw [writeOn, List.singleton_append, List.take_succ_cons]; exact readOn_writeOn on _

theorem readMode_take {op : Byte} {f : Field} {mode : Space} {m : Nat} {rest : List Byte} :
    readMode op f ((writeMode mode ++ rest).take m) =
      if m < 1 then .error (.badOperand op f) else .ok (mode, rest.take (m - 1)) := by
  split
  · next hm => rw [show m = 0 by omega]; rfl
  · next hm =>
    rw [List.take_append, List.take_of_length_le (by rw [writeMode_length]; omega), writeMode_length, readMode_writeMode]

theorem readCall_take {op : Byte} {f : Field} {k : Call} {m : Nat} {rest : List Byte} (h : k.WF) :
    readCall op f ((writeCall k ++ rest).take m) =
      if m < 7 then .error (.badOperand op f) else .ok (k, rest.take (m - 7)) := by
  split
  · next hm =>
    obtain rfl | rfl | rfl | rfl | rfl | rfl | rfl : m = 0 ∨ m = 1 ∨ m = 2 ∨ m = 3 ∨ m = 4 ∨ m = 5 ∨ m = 6 := by omega
    all_goals rfl
  · next hm =>
    rw [List.take_append, List.take_of_length_le (by simp [writeCall]; omega), readCall_writeCall _ h]
    rfl

theorem readNat_malformed {op : Byte} {f : Field} {w : Nat} {bad : List Byte} (rest : List Byte)
    (hl : bad.length = fieldBytes w) (hb : 2 ^ w ≤ ofBytesBE bad) :
    readNat op f w (bad ++ rest) = .error (.badOperand op f) := by
  unfold readNat
  rw [if_neg (by simp; omega), if_neg (by rw [← hl, List.take_left]; omega)]

theorem readOn_malformed {op : Byte} {f : Field} {bad : List Byte} (rest : List Byte)
    (hl : bad.length = fieldBytes 1) (hb : 2 ^ 1 ≤ ofBytesBE bad) :
    readOn op f (bad ++ rest) = .error (.badOperand op f) := by
  unfold readOn; rw [readNat_malformed rest hl hb]; rfl

theorem readMode_malformed {op : Byte} {f : Field} {bad : List Byte} (rest : List Byte)
    (hl : bad.length = fieldBytes 1) (hb : 2 ^ 1 ≤ ofBytesBE bad) :
    readMode op f (bad ++ rest) = .error (.badOperand op f) := by
  unfold readMode; rw [readNat_malformed rest hl hb]; rfl

theorem readCall_malformed {op : Byte} {f : Field} {bad : List Byte} (rest : List Byte)
    (hl : bad.length = fieldBytes 56) (hb : 6 < (bad.headD 0#8).toNat) :
    readCall op f (bad ++ rest) = .error (.badOperand op f) := by
  match bad, hl with
  | [n, _, _, _, _, _, _], _ =>
    simp only [List.headD_cons] at hb
    simp [readCall, Nat.not_le.2 hb]

/-- No bytes of one byte's length are too wide for an 8-bit field. -/
theorem not_malformed_byte {bs : List Byte} (hl : bs.length = fieldBytes 8) : ¬ 2 ^ 8 ≤ ofBytesBE bs := by
  have := ofBytesBE_lt bs
  rw [hl, show fieldBytes 8 = 1 from rfl] at this
  omega

/-- A read that succeeds and goes on. -/
theorem except_bind_ok {ε α β : Type} {x : Except ε α} {f : α → Except ε β} {b : β} :
    (x >>= f) = .ok b ↔ ∃ a, x = .ok a ∧ f a = .ok b := by
  cases x with
  | error e => simp [bind, Except.bind]
  | ok a => simp [bind, Except.bind]

end Sys2Proof
end

