-- ==== Sys2Proof/Laws/Memory.lean ====
section
/-! SUPPORT. The laws of a memory space: a read after a write, and the canonical form that every operation keeps. -/

namespace Sys2Proof.Machine

@[simp] theorem Mem.read_nil (a : Nat) : Mem.read [] a = Mem.unlisted := rfl

theorem Mem.read_cons (k : Nat) (v : Byte) (m : Mem) (a : Nat) :
    Mem.read ((k, v) :: m) a = if a = k then v else Mem.read m a := rfl

theorem Mem.wfFrom_cons {lo k : Nat} {v : Byte} {m : Mem} :
    Mem.wfFrom lo ((k, v) :: m) = true ↔ lo ≤ k ∧ v ≠ Mem.unlisted ∧ Mem.wfFrom (k + 1) m = true := by
  simp [Mem.wfFrom, and_assoc]

theorem Mem.wfFrom_mono {lo lo' : Nat} {m : Mem} (h : lo' ≤ lo) (hm : Mem.wfFrom lo m = true) :
    Mem.wfFrom lo' m = true := by
  cases m with
  | nil => rfl
  | cons c m =>
    obtain ⟨k, v⟩ := c
    rw [Mem.wfFrom_cons] at hm ⊢
    exact ⟨h.trans hm.1, hm.2⟩

/-- A canonical memory whose entries start at `lo` reads as unlisted below `lo`. -/
theorem Mem.read_below {m : Mem} : ∀ {lo a : Nat}, Mem.wfFrom lo m = true → a < lo → Mem.read m a = Mem.unlisted := by
  induction m with
  | nil => intros; rfl
  | cons c m ih =>
    intro lo a hm ha
    obtain ⟨k, v⟩ := c
    rw [Mem.wfFrom_cons] at hm
    rw [Mem.read_cons, if_neg (by omega)]
    exact ih hm.2.2 (by omega)

/-- Reading `put a b m` where `m` lists nothing at or below `a`. -/
theorem Mem.read_put {m : Mem} {lo a x : Nat} {b : Byte} (hm : Mem.wfFrom lo m = true) (ha : a < lo) :
    Mem.read (Mem.put a b m) x = if x = a then b else Mem.read m x := by
  unfold Mem.put
  split
  · next hb =>
    split
    · next hx => rw [hx, hb, Mem.read_below hm ha]
    · rfl
  · exact Mem.read_cons a b m x

/-- A read after a write, in a canonical memory: the byte written at its address, any other byte as before. -/
theorem Mem.read_write {m : Mem} : ∀ {lo : Nat} (a : Nat) (b : Byte) (x : Nat), Mem.wfFrom lo m = true →
    Mem.read (Mem.write m a b) x = if x = a then b else Mem.read m x := by
  induction m with
  | nil =>
    intro lo a b x _
    exact Mem.read_put (m := []) (lo := a + 1) rfl (Nat.lt_succ_self a)
  | cons c m ih =>
    intro lo a b x hm
    obtain ⟨k, v⟩ := c
    have hc := Mem.wfFrom_cons.1 hm
    simp only [Mem.write]
    split
    · next h => exact Mem.read_put (Mem.wfFrom_cons.2 ⟨Nat.le_refl k, hc.2⟩) h
    · split
      · next _ h =>
        subst h
        rw [Mem.read_put hc.2.2 (Nat.lt_succ_self a), Mem.read_cons]
        split <;> simp_all
      · next h1 h2 =>
        rw [Mem.read_cons, Mem.read_cons, ih a b x hc.2.2]
        split <;> split <;> first | rfl | omega

theorem Mem.read_write_same {m : Mem} (a : Nat) (b : Byte) (h : Mem.wf m = true) :
    Mem.read (Mem.write m a b) a = b := by
  rw [Mem.read_write a b a h, if_pos rfl]

theorem Mem.read_write_other {m : Mem} {a x : Nat} (b : Byte) (h : Mem.wf m = true) (hx : x ≠ a) :
    Mem.read (Mem.write m a b) x = Mem.read m x := by
  rw [Mem.read_write a b x h, if_neg hx]

theorem Mem.wfFrom_put {lo a : Nat} {b : Byte} {m : Mem} (hlo : lo ≤ a) (hm : Mem.wfFrom (a + 1) m = true) :
    Mem.wfFrom lo (Mem.put a b m) = true := by
  unfold Mem.put
  split
  · exact Mem.wfFrom_mono (by omega) hm
  · next hb => exact Mem.wfFrom_cons.2 ⟨hlo, hb, hm⟩

theorem Mem.wfFrom_write {m : Mem} : ∀ {lo : Nat} (a : Nat) (b : Byte), lo ≤ a → Mem.wfFrom lo m = true →
    Mem.wfFrom lo (Mem.write m a b) = true := by
  induction m with
  | nil => intro lo a b hlo _; exact Mem.wfFrom_put hlo rfl
  | cons c m ih =>
    intro lo a b hlo hm
    obtain ⟨k, v⟩ := c
    have hc := Mem.wfFrom_cons.1 hm
    simp only [Mem.write]
    split
    · next h => exact Mem.wfFrom_put hlo (Mem.wfFrom_cons.2 ⟨h, hc.2⟩)
    · split
      · next _ h => exact Mem.wfFrom_put hlo (h ▸ hc.2.2)
      · next h1 h2 => exact Mem.wfFrom_cons.2 ⟨hc.1, hc.2.1, ih a b (by omega) hc.2.2⟩

/-- A write keeps the canonical form. -/
theorem Mem.wf_write {m : Mem} (a : Nat) (b : Byte) (h : Mem.wf m = true) : Mem.wf (Mem.write m a b) = true :=
  Mem.wfFrom_write a b (Nat.zero_le a) h

theorem Mem.inSpace_cons {size k : Nat} {v : Byte} {m : Mem} :
    Mem.inSpace size ((k, v) :: m) = true ↔ k < size ∧ Mem.inSpace size m = true := by
  simp [Mem.inSpace]

theorem Mem.inSpace_put {size a : Nat} {b : Byte} {m : Mem} (ha : a < size) (hm : Mem.inSpace size m = true) :
    Mem.inSpace size (Mem.put a b m) = true := by
  unfold Mem.put
  split
  · exact hm
  · exact Mem.inSpace_cons.2 ⟨ha, hm⟩

/-- A write inside the space lists no address outside it. -/
theorem Mem.inSpace_write {size : Nat} {m : Mem} (a : Nat) (b : Byte) (ha : a < size) (hm : Mem.inSpace size m = true) :
    Mem.inSpace size (Mem.write m a b) = true := by
  induction m with
  | nil => exact Mem.inSpace_put ha rfl
  | cons c m ih =>
    obtain ⟨k, v⟩ := c
    have hc := Mem.inSpace_cons.1 hm
    simp only [Mem.write]
    split
    · exact Mem.inSpace_put ha hm
    · split
      · exact Mem.inSpace_put ha hc.2
      · exact Mem.inSpace_cons.2 ⟨hc.1, ih hc.2⟩

end Sys2Proof.Machine
end

