-- ==== Sys2Proof/Laws/State.lean ====
section
/-! SUPPORT. One lemma per field per named update of the state, each true by `rfl`, so that no proof unfolds an update. -/

namespace Sys2Proof.Machine

variable (s : State)

/-! ### `respond` -/

@[simp] theorem respond_rttyPtr (bs : List Byte) : (respond s bs).rttyPtr = s.rttyPtr := rfl
@[simp] theorem respond_rttyLen (bs : List Byte) : (respond s bs).rttyLen = s.rttyLen := rfl
@[simp] theorem respond_rttyMode (bs : List Byte) : (respond s bs).rttyMode = s.rttyMode := rfl
@[simp] theorem respond_rttyClk (bs : List Byte) : (respond s bs).rttyClk = s.rttyClk := rfl
@[simp] theorem respond_rttyBit (bs : List Byte) : (respond s bs).rttyBit = s.rttyBit := rfl
@[simp] theorem respond_rttySr (bs : List Byte) : (respond s bs).rttySr = s.rttySr := rfl
@[simp] theorem respond_rttyLine (bs : List Byte) : (respond s bs).rttyLine = s.rttyLine := rfl
@[simp] theorem respond_rttyTxen (bs : List Byte) : (respond s bs).rttyTxen = s.rttyTxen := rfl
@[simp] theorem respond_rttyIe (bs : List Byte) : (respond s bs).rttyIe = s.rttyIe := rfl
@[simp] theorem respond_afskPtr (bs : List Byte) : (respond s bs).afskPtr = s.afskPtr := rfl
@[simp] theorem respond_afskLen (bs : List Byte) : (respond s bs).afskLen = s.afskLen := rfl
@[simp] theorem respond_afskMode (bs : List Byte) : (respond s bs).afskMode = s.afskMode := rfl
@[simp] theorem respond_afskClk (bs : List Byte) : (respond s bs).afskClk = s.afskClk := rfl
@[simp] theorem respond_ddsPhase (bs : List Byte) : (respond s bs).ddsPhase = s.ddsPhase := rfl
@[simp] theorem respond_ddsTone (bs : List Byte) : (respond s bs).ddsTone = s.ddsTone := rfl
@[simp] theorem respond_afskSample (bs : List Byte) : (respond s bs).afskSample = s.afskSample := rfl
@[simp] theorem respond_hdlcSr (bs : List Byte) : (respond s bs).hdlcSr = s.hdlcSr := rfl
@[simp] theorem respond_hdlcBit (bs : List Byte) : (respond s bs).hdlcBit = s.hdlcBit := rfl
@[simp] theorem respond_hdlcOnes (bs : List Byte) : (respond s bs).hdlcOnes = s.hdlcOnes := rfl
@[simp] theorem respond_hdlcStuff (bs : List Byte) : (respond s bs).hdlcStuff = s.hdlcStuff := rfl
@[simp] theorem respond_hdlcRest (bs : List Byte) : (respond s bs).hdlcRest = s.hdlcRest := rfl
@[simp] theorem respond_afskTxen (bs : List Byte) : (respond s bs).afskTxen = s.afskTxen := rfl
@[simp] theorem respond_afskIe (bs : List Byte) : (respond s bs).afskIe = s.afskIe := rfl
@[simp] theorem respond_crc (bs : List Byte) : (respond s bs).crc = s.crc := rfl
@[simp] theorem respond_fbLen (bs : List Byte) : (respond s bs).fbLen = s.fbLen := rfl
@[simp] theorem respond_fbTrunc (bs : List Byte) : (respond s bs).fbTrunc = s.fbTrunc := rfl
@[simp] theorem respond_dataMem (bs : List Byte) : (respond s bs).dataMem = s.dataMem := rfl
@[simp] theorem respond_constMem (bs : List Byte) : (respond s bs).constMem = s.constMem := rfl
@[simp] theorem respond_cfg (bs : List Byte) : (respond s bs).cfg = s.cfg := rfl
@[simp] theorem respond_hostIn (bs : List Byte) : (respond s bs).hostIn = s.hostIn := rfl
@[simp] theorem respond_hostOut (bs : List Byte) : (respond s bs).hostOut = s.hostOut ++ bs := rfl
@[simp] theorem respond_hostHeld (bs : List Byte) : (respond s bs).hostHeld = s.hostHeld := rfl
@[simp] theorem respond_sched (bs : List Byte) : (respond s bs).sched = s.sched := rfl
@[simp] theorem respond_freeIdx (bs : List Byte) : (respond s bs).freeIdx = s.freeIdx := rfl

/-! ### `takeCommand` -/

@[simp] theorem takeCommand_rttyPtr (rest : List Byte) : (takeCommand s rest).rttyPtr = s.rttyPtr := rfl
@[simp] theorem takeCommand_rttyLen (rest : List Byte) : (takeCommand s rest).rttyLen = s.rttyLen := rfl
@[simp] theorem takeCommand_rttyMode (rest : List Byte) : (takeCommand s rest).rttyMode = s.rttyMode := rfl
@[simp] theorem takeCommand_rttyClk (rest : List Byte) : (takeCommand s rest).rttyClk = s.rttyClk := rfl
@[simp] theorem takeCommand_rttyBit (rest : List Byte) : (takeCommand s rest).rttyBit = s.rttyBit := rfl
@[simp] theorem takeCommand_rttySr (rest : List Byte) : (takeCommand s rest).rttySr = s.rttySr := rfl
@[simp] theorem takeCommand_rttyLine (rest : List Byte) : (takeCommand s rest).rttyLine = s.rttyLine := rfl
@[simp] theorem takeCommand_rttyTxen (rest : List Byte) : (takeCommand s rest).rttyTxen = s.rttyTxen := rfl
@[simp] theorem takeCommand_rttyIe (rest : List Byte) : (takeCommand s rest).rttyIe = s.rttyIe := rfl
@[simp] theorem takeCommand_afskPtr (rest : List Byte) : (takeCommand s rest).afskPtr = s.afskPtr := rfl
@[simp] theorem takeCommand_afskLen (rest : List Byte) : (takeCommand s rest).afskLen = s.afskLen := rfl
@[simp] theorem takeCommand_afskMode (rest : List Byte) : (takeCommand s rest).afskMode = s.afskMode := rfl
@[simp] theorem takeCommand_afskClk (rest : List Byte) : (takeCommand s rest).afskClk = s.afskClk := rfl
@[simp] theorem takeCommand_ddsPhase (rest : List Byte) : (takeCommand s rest).ddsPhase = s.ddsPhase := rfl
@[simp] theorem takeCommand_ddsTone (rest : List Byte) : (takeCommand s rest).ddsTone = s.ddsTone := rfl
@[simp] theorem takeCommand_afskSample (rest : List Byte) : (takeCommand s rest).afskSample = s.afskSample := rfl
@[simp] theorem takeCommand_hdlcSr (rest : List Byte) : (takeCommand s rest).hdlcSr = s.hdlcSr := rfl
@[simp] theorem takeCommand_hdlcBit (rest : List Byte) : (takeCommand s rest).hdlcBit = s.hdlcBit := rfl
@[simp] theorem takeCommand_hdlcOnes (rest : List Byte) : (takeCommand s rest).hdlcOnes = s.hdlcOnes := rfl
@[simp] theorem takeCommand_hdlcStuff (rest : List Byte) : (takeCommand s rest).hdlcStuff = s.hdlcStuff := rfl
@[simp] theorem takeCommand_hdlcRest (rest : List Byte) : (takeCommand s rest).hdlcRest = s.hdlcRest := rfl
@[simp] theorem takeCommand_afskTxen (rest : List Byte) : (takeCommand s rest).afskTxen = s.afskTxen := rfl
@[simp] theorem takeCommand_afskIe (rest : List Byte) : (takeCommand s rest).afskIe = s.afskIe := rfl
@[simp] theorem takeCommand_crc (rest : List Byte) : (takeCommand s rest).crc = s.crc := rfl
@[simp] theorem takeCommand_fbLen (rest : List Byte) : (takeCommand s rest).fbLen = s.fbLen := rfl
@[simp] theorem takeCommand_fbTrunc (rest : List Byte) : (takeCommand s rest).fbTrunc = s.fbTrunc := rfl
@[simp] theorem takeCommand_dataMem (rest : List Byte) : (takeCommand s rest).dataMem = s.dataMem := rfl
@[simp] theorem takeCommand_constMem (rest : List Byte) : (takeCommand s rest).constMem = s.constMem := rfl
@[simp] theorem takeCommand_cfg (rest : List Byte) : (takeCommand s rest).cfg = s.cfg := rfl
@[simp] theorem takeCommand_hostIn (rest : List Byte) : (takeCommand s rest).hostIn = rest := rfl
@[simp] theorem takeCommand_hostOut (rest : List Byte) : (takeCommand s rest).hostOut = s.hostOut := rfl
@[simp] theorem takeCommand_hostHeld (rest : List Byte) : (takeCommand s rest).hostHeld = false := rfl
@[simp] theorem takeCommand_sched (rest : List Byte) : (takeCommand s rest).sched = s.sched := rfl
@[simp] theorem takeCommand_freeIdx (rest : List Byte) : (takeCommand s rest).freeIdx = s.freeIdx := rfl

/-! ### `holding` -/

@[simp] theorem holding_rttyPtr : (holding s).rttyPtr = s.rttyPtr := rfl
@[simp] theorem holding_rttyLen : (holding s).rttyLen = s.rttyLen := rfl
@[simp] theorem holding_rttyMode : (holding s).rttyMode = s.rttyMode := rfl
@[simp] theorem holding_rttyClk : (holding s).rttyClk = s.rttyClk := rfl
@[simp] theorem holding_rttyBit : (holding s).rttyBit = s.rttyBit := rfl
@[simp] theorem holding_rttySr : (holding s).rttySr = s.rttySr := rfl
@[simp] theorem holding_rttyLine : (holding s).rttyLine = s.rttyLine := rfl
@[simp] theorem holding_rttyTxen : (holding s).rttyTxen = s.rttyTxen := rfl
@[simp] theorem holding_rttyIe : (holding s).rttyIe = s.rttyIe := rfl
@[simp] theorem holding_afskPtr : (holding s).afskPtr = s.afskPtr := rfl
@[simp] theorem holding_afskLen : (holding s).afskLen = s.afskLen := rfl
@[simp] theorem holding_afskMode : (holding s).afskMode = s.afskMode := rfl
@[simp] theorem holding_afskClk : (holding s).afskClk = s.afskClk := rfl
@[simp] theorem holding_ddsPhase : (holding s).ddsPhase = s.ddsPhase := rfl
@[simp] theorem holding_ddsTone : (holding s).ddsTone = s.ddsTone := rfl
@[simp] theorem holding_afskSample : (holding s).afskSample = s.afskSample := rfl
@[simp] theorem holding_hdlcSr : (holding s).hdlcSr = s.hdlcSr := rfl
@[simp] theorem holding_hdlcBit : (holding s).hdlcBit = s.hdlcBit := rfl
@[simp] theorem holding_hdlcOnes : (holding s).hdlcOnes = s.hdlcOnes := rfl
@[simp] theorem holding_hdlcStuff : (holding s).hdlcStuff = s.hdlcStuff := rfl
@[simp] theorem holding_hdlcRest : (holding s).hdlcRest = s.hdlcRest := rfl
@[simp] theorem holding_afskTxen : (holding s).afskTxen = s.afskTxen := rfl
@[simp] theorem holding_afskIe : (holding s).afskIe = s.afskIe := rfl
@[simp] theorem holding_crc : (holding s).crc = s.crc := rfl
@[simp] theorem holding_fbLen : (holding s).fbLen = s.fbLen := rfl
@[simp] theorem holding_fbTrunc : (holding s).fbTrunc = s.fbTrunc := rfl
@[simp] theorem holding_dataMem : (holding s).dataMem = s.dataMem := rfl
@[simp] theorem holding_constMem : (holding s).constMem = s.constMem := rfl
@[simp] theorem holding_cfg : (holding s).cfg = s.cfg := rfl
@[simp] theorem holding_hostIn : (holding s).hostIn = s.hostIn := rfl
@[simp] theorem holding_hostOut : (holding s).hostOut = s.hostOut := rfl
@[simp] theorem holding_hostHeld : (holding s).hostHeld = true := rfl
@[simp] theorem holding_sched : (holding s).sched = s.sched := rfl
@[simp] theorem holding_freeIdx : (holding s).freeIdx = s.freeIdx := rfl

/-! ### `rttyData` -/

@[simp] theorem rttyData_rttyPtr : (rttyData s).rttyPtr = s.rttyPtr := rfl
@[simp] theorem rttyData_rttyLen : (rttyData s).rttyLen = s.rttyLen := rfl
@[simp] theorem rttyData_rttyMode : (rttyData s).rttyMode = s.rttyMode := rfl
@[simp] theorem rttyData_rttyClk : (rttyData s).rttyClk = s.rttyClk := rfl
@[simp] theorem rttyData_rttyBit : (rttyData s).rttyBit = s.rttyBit + 1#4 := rfl
@[simp] theorem rttyData_rttySr : (rttyData s).rttySr = s.rttySr >>> (1 : Nat) := rfl
@[simp] theorem rttyData_rttyLine : (rttyData s).rttyLine = s.rttySr.getLsbD 0 := rfl
@[simp] theorem rttyData_rttyTxen : (rttyData s).rttyTxen = s.rttyTxen := rfl
@[simp] theorem rttyData_rttyIe : (rttyData s).rttyIe = s.rttyIe := rfl
@[simp] theorem rttyData_afskPtr : (rttyData s).afskPtr = s.afskPtr := rfl
@[simp] theorem rttyData_afskLen : (rttyData s).afskLen = s.afskLen := rfl
@[simp] theorem rttyData_afskMode : (rttyData s).afskMode = s.afskMode := rfl
@[simp] theorem rttyData_afskClk : (rttyData s).afskClk = s.afskClk := rfl
@[simp] theorem rttyData_ddsPhase : (rttyData s).ddsPhase = s.ddsPhase := rfl
@[simp] theorem rttyData_ddsTone : (rttyData s).ddsTone = s.ddsTone := rfl
@[simp] theorem rttyData_afskSample : (rttyData s).afskSample = s.afskSample := rfl
@[simp] theorem rttyData_hdlcSr : (rttyData s).hdlcSr = s.hdlcSr := rfl
@[simp] theorem rttyData_hdlcBit : (rttyData s).hdlcBit = s.hdlcBit := rfl
@[simp] theorem rttyData_hdlcOnes : (rttyData s).hdlcOnes = s.hdlcOnes := rfl
@[simp] theorem rttyData_hdlcStuff : (rttyData s).hdlcStuff = s.hdlcStuff := rfl
@[simp] theorem rttyData_hdlcRest : (rttyData s).hdlcRest = s.hdlcRest := rfl
@[simp] theorem rttyData_afskTxen : (rttyData s).afskTxen = s.afskTxen := rfl
@[simp] theorem rttyData_afskIe : (rttyData s).afskIe = s.afskIe := rfl
@[simp] theorem rttyData_crc : (rttyData s).crc = s.crc := rfl
@[simp] theorem rttyData_fbLen : (rttyData s).fbLen = s.fbLen := rfl
@[simp] theorem rttyData_fbTrunc : (rttyData s).fbTrunc = s.fbTrunc := rfl
@[simp] theorem rttyData_dataMem : (rttyData s).dataMem = s.dataMem := rfl
@[simp] theorem rttyData_constMem : (rttyData s).constMem = s.constMem := rfl
@[simp] theorem rttyData_cfg : (rttyData s).cfg = s.cfg := rfl
@[simp] theorem rttyData_hostIn : (rttyData s).hostIn = s.hostIn := rfl
@[simp] theorem rttyData_hostOut : (rttyData s).hostOut = s.hostOut := rfl
@[simp] theorem rttyData_hostHeld : (rttyData s).hostHeld = s.hostHeld := rfl
@[simp] theorem rttyData_sched : (rttyData s).sched = s.sched := rfl
@[simp] theorem rttyData_freeIdx : (rttyData s).freeIdx = s.freeIdx := rfl

/-! ### `rttyStop` -/

@[simp] theorem rttyStop_rttyPtr : (rttyStop s).rttyPtr = s.rttyPtr := rfl
@[simp] theorem rttyStop_rttyLen : (rttyStop s).rttyLen = s.rttyLen := rfl
@[simp] theorem rttyStop_rttyMode : (rttyStop s).rttyMode = s.rttyMode := rfl
@[simp] theorem rttyStop_rttyClk : (rttyStop s).rttyClk = s.rttyClk := rfl
@[simp] theorem rttyStop_rttyBit : (rttyStop s).rttyBit = 0#4 := rfl
@[simp] theorem rttyStop_rttySr : (rttyStop s).rttySr = s.rttySr := rfl
@[simp] theorem rttyStop_rttyLine : (rttyStop s).rttyLine = true := rfl
@[simp] theorem rttyStop_rttyTxen : (rttyStop s).rttyTxen = s.rttyTxen := rfl
@[simp] theorem rttyStop_rttyIe : (rttyStop s).rttyIe = s.rttyIe := rfl
@[simp] theorem rttyStop_afskPtr : (rttyStop s).afskPtr = s.afskPtr := rfl
@[simp] theorem rttyStop_afskLen : (rttyStop s).afskLen = s.afskLen := rfl
@[simp] theorem rttyStop_afskMode : (rttyStop s).afskMode = s.afskMode := rfl
@[simp] theorem rttyStop_afskClk : (rttyStop s).afskClk = s.afskClk := rfl
@[simp] theorem rttyStop_ddsPhase : (rttyStop s).ddsPhase = s.ddsPhase := rfl
@[simp] theorem rttyStop_ddsTone : (rttyStop s).ddsTone = s.ddsTone := rfl
@[simp] theorem rttyStop_afskSample : (rttyStop s).afskSample = s.afskSample := rfl
@[simp] theorem rttyStop_hdlcSr : (rttyStop s).hdlcSr = s.hdlcSr := rfl
@[simp] theorem rttyStop_hdlcBit : (rttyStop s).hdlcBit = s.hdlcBit := rfl
@[simp] theorem rttyStop_hdlcOnes : (rttyStop s).hdlcOnes = s.hdlcOnes := rfl
@[simp] theorem rttyStop_hdlcStuff : (rttyStop s).hdlcStuff = s.hdlcStuff := rfl
@[simp] theorem rttyStop_hdlcRest : (rttyStop s).hdlcRest = s.hdlcRest := rfl
@[simp] theorem rttyStop_afskTxen : (rttyStop s).afskTxen = s.afskTxen := rfl
@[simp] theorem rttyStop_afskIe : (rttyStop s).afskIe = s.afskIe := rfl
@[simp] theorem rttyStop_crc : (rttyStop s).crc = s.crc := rfl
@[simp] theorem rttyStop_fbLen : (rttyStop s).fbLen = s.fbLen := rfl
@[simp] theorem rttyStop_fbTrunc : (rttyStop s).fbTrunc = s.fbTrunc := rfl
@[simp] theorem rttyStop_dataMem : (rttyStop s).dataMem = s.dataMem := rfl
@[simp] theorem rttyStop_constMem : (rttyStop s).constMem = s.constMem := rfl
@[simp] theorem rttyStop_cfg : (rttyStop s).cfg = s.cfg := rfl
@[simp] theorem rttyStop_hostIn : (rttyStop s).hostIn = s.hostIn := rfl
@[simp] theorem rttyStop_hostOut : (rttyStop s).hostOut = s.hostOut := rfl
@[simp] theorem rttyStop_hostHeld : (rttyStop s).hostHeld = s.hostHeld := rfl
@[simp] theorem rttyStop_sched : (rttyStop s).sched = s.sched := rfl
@[simp] theorem rttyStop_freeIdx : (rttyStop s).freeIdx = s.freeIdx := rfl

/-! ### `ddsStep` -/

@[simp] theorem ddsStep_rttyPtr : (ddsStep s).rttyPtr = s.rttyPtr := rfl
@[simp] theorem ddsStep_rttyLen : (ddsStep s).rttyLen = s.rttyLen := rfl
@[simp] theorem ddsStep_rttyMode : (ddsStep s).rttyMode = s.rttyMode := rfl
@[simp] theorem ddsStep_rttyClk : (ddsStep s).rttyClk = s.rttyClk := rfl
@[simp] theorem ddsStep_rttyBit : (ddsStep s).rttyBit = s.rttyBit := rfl
@[simp] theorem ddsStep_rttySr : (ddsStep s).rttySr = s.rttySr := rfl
@[simp] theorem ddsStep_rttyLine : (ddsStep s).rttyLine = s.rttyLine := rfl
@[simp] theorem ddsStep_rttyTxen : (ddsStep s).rttyTxen = s.rttyTxen := rfl
@[simp] theorem ddsStep_rttyIe : (ddsStep s).rttyIe = s.rttyIe := rfl
@[simp] theorem ddsStep_afskPtr : (ddsStep s).afskPtr = s.afskPtr := rfl
@[simp] theorem ddsStep_afskLen : (ddsStep s).afskLen = s.afskLen := rfl
@[simp] theorem ddsStep_afskMode : (ddsStep s).afskMode = s.afskMode := rfl
@[simp] theorem ddsStep_afskClk : (ddsStep s).afskClk = s.afskClk := rfl
@[simp] theorem ddsStep_ddsPhase : (ddsStep s).ddsPhase = trunc s.cfg.phaseBits (s.ddsPhase + ddsIncrement s.cfg s.ddsTone) := rfl
@[simp] theorem ddsStep_ddsTone : (ddsStep s).ddsTone = s.ddsTone := rfl
@[simp] theorem ddsStep_afskSample : (ddsStep s).afskSample = waveSample s.cfg (ddsIndex s.cfg s.ddsPhase) := rfl
@[simp] theorem ddsStep_hdlcSr : (ddsStep s).hdlcSr = s.hdlcSr := rfl
@[simp] theorem ddsStep_hdlcBit : (ddsStep s).hdlcBit = s.hdlcBit := rfl
@[simp] theorem ddsStep_hdlcOnes : (ddsStep s).hdlcOnes = s.hdlcOnes := rfl
@[simp] theorem ddsStep_hdlcStuff : (ddsStep s).hdlcStuff = s.hdlcStuff := rfl
@[simp] theorem ddsStep_hdlcRest : (ddsStep s).hdlcRest = s.hdlcRest := rfl
@[simp] theorem ddsStep_afskTxen : (ddsStep s).afskTxen = s.afskTxen := rfl
@[simp] theorem ddsStep_afskIe : (ddsStep s).afskIe = s.afskIe := rfl
@[simp] theorem ddsStep_crc : (ddsStep s).crc = s.crc := rfl
@[simp] theorem ddsStep_fbLen : (ddsStep s).fbLen = s.fbLen := rfl
@[simp] theorem ddsStep_fbTrunc : (ddsStep s).fbTrunc = s.fbTrunc := rfl
@[simp] theorem ddsStep_dataMem : (ddsStep s).dataMem = s.dataMem := rfl
@[simp] theorem ddsStep_constMem : (ddsStep s).constMem = s.constMem := rfl
@[simp] theorem ddsStep_cfg : (ddsStep s).cfg = s.cfg := rfl
@[simp] theorem ddsStep_hostIn : (ddsStep s).hostIn = s.hostIn := rfl
@[simp] theorem ddsStep_hostOut : (ddsStep s).hostOut = s.hostOut := rfl
@[simp] theorem ddsStep_hostHeld : (ddsStep s).hostHeld = s.hostHeld := rfl
@[simp] theorem ddsStep_sched : (ddsStep s).sched = s.sched := rfl
@[simp] theorem ddsStep_freeIdx : (ddsStep s).freeIdx = s.freeIdx := rfl

/-! ### `stuffZero` -/

@[simp] theorem stuffZero_rttyPtr : (stuffZero s).rttyPtr = s.rttyPtr := rfl
@[simp] theorem stuffZero_rttyLen : (stuffZero s).rttyLen = s.rttyLen := rfl
@[simp] theorem stuffZero_rttyMode : (stuffZero s).rttyMode = s.rttyMode := rfl
@[simp] theorem stuffZero_rttyClk : (stuffZero s).rttyClk = s.rttyClk := rfl
@[simp] theorem stuffZero_rttyBit : (stuffZero s).rttyBit = s.rttyBit := rfl
@[simp] theorem stuffZero_rttySr : (stuffZero s).rttySr = s.rttySr := rfl
@[simp] theorem stuffZero_rttyLine : (stuffZero s).rttyLine = s.rttyLine := rfl
@[simp] theorem stuffZero_rttyTxen : (stuffZero s).rttyTxen = s.rttyTxen := rfl
@[simp] theorem stuffZero_rttyIe : (stuffZero s).rttyIe = s.rttyIe := rfl
@[simp] theorem stuffZero_afskPtr : (stuffZero s).afskPtr = s.afskPtr := rfl
@[simp] theorem stuffZero_afskLen : (stuffZero s).afskLen = s.afskLen := rfl
@[simp] theorem stuffZero_afskMode : (stuffZero s).afskMode = s.afskMode := rfl
@[simp] theorem stuffZero_afskClk : (stuffZero s).afskClk = s.afskClk := rfl
@[simp] theorem stuffZero_ddsPhase : (stuffZero s).ddsPhase = s.ddsPhase := rfl
@[simp] theorem stuffZero_ddsTone : (stuffZero s).ddsTone = !s.ddsTone := rfl
@[simp] theorem stuffZero_afskSample : (stuffZero s).afskSample = s.afskSample := rfl
@[simp] theorem stuffZero_hdlcSr : (stuffZero s).hdlcSr = s.hdlcSr := rfl
@[simp] theorem stuffZero_hdlcBit : (stuffZero s).hdlcBit = s.hdlcBit := rfl
@[simp] theorem stuffZero_hdlcOnes : (stuffZero s).hdlcOnes = 0#3 := rfl
@[simp] theorem stuffZero_hdlcStuff : (stuffZero s).hdlcStuff = s.hdlcStuff := rfl
@[simp] theorem stuffZero_hdlcRest : (stuffZero s).hdlcRest = s.hdlcRest := rfl
@[simp] theorem stuffZero_afskTxen : (stuffZero s).afskTxen = s.afskTxen := rfl
@[simp] theorem stuffZero_afskIe : (stuffZero s).afskIe = s.afskIe := rfl
@[simp] theorem stuffZero_crc : (stuffZero s).crc = s.crc := rfl
@[simp] theorem stuffZero_fbLen : (stuffZero s).fbLen = s.fbLen := rfl
@[simp] theorem stuffZero_fbTrunc : (stuffZero s).fbTrunc = s.fbTrunc := rfl
@[simp] theorem stuffZero_dataMem : (stuffZero s).dataMem = s.dataMem := rfl
@[simp] theorem stuffZero_constMem : (stuffZero s).constMem = s.constMem := rfl
@[simp] theorem stuffZero_cfg : (stuffZero s).cfg = s.cfg := rfl
@[simp] theorem stuffZero_hostIn : (stuffZero s).hostIn = s.hostIn := rfl
@[simp] theorem stuffZero_hostOut : (stuffZero s).hostOut = s.hostOut := rfl
@[simp] theorem stuffZero_hostHeld : (stuffZero s).hostHeld = s.hostHeld := rfl
@[simp] theorem stuffZero_sched : (stuffZero s).sched = s.sched := rfl
@[simp] theorem stuffZero_freeIdx : (stuffZero s).freeIdx = s.freeIdx := rfl

/-! ### `loadFlag` -/

@[simp] theorem loadFlag_rttyPtr : (loadFlag s).rttyPtr = s.rttyPtr := rfl
@[simp] theorem loadFlag_rttyLen : (loadFlag s).rttyLen = s.rttyLen := rfl
@[simp] theorem loadFlag_rttyMode : (loadFlag s).rttyMode = s.rttyMode := rfl
@[simp] theorem loadFlag_rttyClk : (loadFlag s).rttyClk = s.rttyClk := rfl
@[simp] theorem loadFlag_rttyBit : (loadFlag s).rttyBit = s.rttyBit := rfl
@[simp] theorem loadFlag_rttySr : (loadFlag s).rttySr = s.rttySr := rfl
@[simp] theorem loadFlag_rttyLine : (loadFlag s).rttyLine = s.rttyLine := rfl
@[simp] theorem loadFlag_rttyTxen : (loadFlag s).rttyTxen = s.rttyTxen := rfl
@[simp] theorem loadFlag_rttyIe : (loadFlag s).rttyIe = s.rttyIe := rfl
@[simp] theorem loadFlag_afskPtr : (loadFlag s).afskPtr = s.afskPtr := rfl
@[simp] theorem loadFlag_afskLen : (loadFlag s).afskLen = s.afskLen := rfl
@[simp] theorem loadFlag_afskMode : (loadFlag s).afskMode = s.afskMode := rfl
@[simp] theorem loadFlag_afskClk : (loadFlag s).afskClk = s.afskClk := rfl
@[simp] theorem loadFlag_ddsPhase : (loadFlag s).ddsPhase = s.ddsPhase := rfl
@[simp] theorem loadFlag_ddsTone : (loadFlag s).ddsTone = s.ddsTone := rfl
@[simp] theorem loadFlag_afskSample : (loadFlag s).afskSample = s.afskSample := rfl
@[simp] theorem loadFlag_hdlcSr : (loadFlag s).hdlcSr = Config.flag := rfl
@[simp] theorem loadFlag_hdlcBit : (loadFlag s).hdlcBit = s.hdlcBit := rfl
@[simp] theorem loadFlag_hdlcOnes : (loadFlag s).hdlcOnes = 0#3 := rfl
@[simp] theorem loadFlag_hdlcStuff : (loadFlag s).hdlcStuff = false := rfl
@[simp] theorem loadFlag_hdlcRest : (loadFlag s).hdlcRest = s.hdlcRest := rfl
@[simp] theorem loadFlag_afskTxen : (loadFlag s).afskTxen = s.afskTxen := rfl
@[simp] theorem loadFlag_afskIe : (loadFlag s).afskIe = s.afskIe := rfl
@[simp] theorem loadFlag_crc : (loadFlag s).crc = s.crc := rfl
@[simp] theorem loadFlag_fbLen : (loadFlag s).fbLen = s.fbLen := rfl
@[simp] theorem loadFlag_fbTrunc : (loadFlag s).fbTrunc = s.fbTrunc := rfl
@[simp] theorem loadFlag_dataMem : (loadFlag s).dataMem = s.dataMem := rfl
@[simp] theorem loadFlag_constMem : (loadFlag s).constMem = s.constMem := rfl
@[simp] theorem loadFlag_cfg : (loadFlag s).cfg = s.cfg := rfl
@[simp] theorem loadFlag_hostIn : (loadFlag s).hostIn = s.hostIn := rfl
@[simp] theorem loadFlag_hostOut : (loadFlag s).hostOut = s.hostOut := rfl
@[simp] theorem loadFlag_hostHeld : (loadFlag s).hostHeld = s.hostHeld := rfl
@[simp] theorem loadFlag_sched : (loadFlag s).sched = s.sched := rfl
@[simp] theorem loadFlag_freeIdx : (loadFlag s).freeIdx = s.freeIdx := rfl

/-! ### `shutdown` -/

@[simp] theorem shutdown_rttyPtr : (shutdown s).rttyPtr = s.rttyPtr := rfl
@[simp] theorem shutdown_rttyLen : (shutdown s).rttyLen = s.rttyLen := rfl
@[simp] theorem shutdown_rttyMode : (shutdown s).rttyMode = s.rttyMode := rfl
@[simp] theorem shutdown_rttyClk : (shutdown s).rttyClk = s.rttyClk := rfl
@[simp] theorem shutdown_rttyBit : (shutdown s).rttyBit = s.rttyBit := rfl
@[simp] theorem shutdown_rttySr : (shutdown s).rttySr = s.rttySr := rfl
@[simp] theorem shutdown_rttyLine : (shutdown s).rttyLine = s.rttyLine := rfl
@[simp] theorem shutdown_rttyTxen : (shutdown s).rttyTxen = s.rttyTxen := rfl
@[simp] theorem shutdown_rttyIe : (shutdown s).rttyIe = s.rttyIe := rfl
@[simp] theorem shutdown_afskPtr : (shutdown s).afskPtr = s.afskPtr := rfl
@[simp] theorem shutdown_afskLen : (shutdown s).afskLen = s.afskLen := rfl
@[simp] theorem shutdown_afskMode : (shutdown s).afskMode = s.afskMode := rfl
@[simp] theorem shutdown_afskClk : (shutdown s).afskClk = 0 := rfl
@[simp] theorem shutdown_ddsPhase : (shutdown s).ddsPhase = 0 := rfl
@[simp] theorem shutdown_ddsTone : (shutdown s).ddsTone = false := rfl
@[simp] theorem shutdown_afskSample : (shutdown s).afskSample = s.afskSample := rfl
@[simp] theorem shutdown_hdlcSr : (shutdown s).hdlcSr = s.hdlcSr := rfl
@[simp] theorem shutdown_hdlcBit : (shutdown s).hdlcBit = 7#3 := rfl
@[simp] theorem shutdown_hdlcOnes : (shutdown s).hdlcOnes = 0#3 := rfl
@[simp] theorem shutdown_hdlcStuff : (shutdown s).hdlcStuff = false := rfl
@[simp] theorem shutdown_hdlcRest : (shutdown s).hdlcRest = BitVec.ofNat 8 s.cfg.restIdle := rfl
@[simp] theorem shutdown_afskTxen : (shutdown s).afskTxen = false := rfl
@[simp] theorem shutdown_afskIe : (shutdown s).afskIe = false := rfl
@[simp] theorem shutdown_crc : (shutdown s).crc = s.crc := rfl
@[simp] theorem shutdown_fbLen : (shutdown s).fbLen = s.fbLen := rfl
@[simp] theorem shutdown_fbTrunc : (shutdown s).fbTrunc = s.fbTrunc := rfl
@[simp] theorem shutdown_dataMem : (shutdown s).dataMem = s.dataMem := rfl
@[simp] theorem shutdown_constMem : (shutdown s).constMem = s.constMem := rfl
@[simp] theorem shutdown_cfg : (shutdown s).cfg = s.cfg := rfl
@[simp] theorem shutdown_hostIn : (shutdown s).hostIn = s.hostIn := rfl
@[simp] theorem shutdown_hostOut : (shutdown s).hostOut = s.hostOut := rfl
@[simp] theorem shutdown_hostHeld : (shutdown s).hostHeld = s.hostHeld := rfl
@[simp] theorem shutdown_sched : (shutdown s).sched = s.sched := rfl
@[simp] theorem shutdown_freeIdx : (shutdown s).freeIdx = s.freeIdx := rfl

/-! ### `resetRegisters` -/

@[simp] theorem resetRegisters_rttyPtr : (resetRegisters s).rttyPtr = freeBits s 0 s.cfg.addrBits := rfl
@[simp] theorem resetRegisters_rttyLen : (resetRegisters s).rttyLen = 0 := rfl
@[simp] theorem resetRegisters_rttyMode : (resetRegisters s).rttyMode = freeMode s 1 := rfl
@[simp] theorem resetRegisters_rttyClk : (resetRegisters s).rttyClk = 0 := rfl
@[simp] theorem resetRegisters_rttyBit : (resetRegisters s).rttyBit = 0#4 := rfl
@[simp] theorem resetRegisters_rttySr : (resetRegisters s).rttySr = BitVec.ofNat 8 (freeBits s 2 8) := rfl
@[simp] theorem resetRegisters_rttyLine : (resetRegisters s).rttyLine = true := rfl
@[simp] theorem resetRegisters_rttyTxen : (resetRegisters s).rttyTxen = false := rfl
@[simp] theorem resetRegisters_rttyIe : (resetRegisters s).rttyIe = false := rfl
@[simp] theorem resetRegisters_afskPtr : (resetRegisters s).afskPtr = freeBits s 3 s.cfg.addrBits := rfl
@[simp] theorem resetRegisters_afskLen : (resetRegisters s).afskLen = 0 := rfl
@[simp] theorem resetRegisters_afskMode : (resetRegisters s).afskMode = freeMode s 4 := rfl
@[simp] theorem resetRegisters_afskClk : (resetRegisters s).afskClk = 0 := rfl
@[simp] theorem resetRegisters_ddsPhase : (resetRegisters s).ddsPhase = 0 := rfl
@[simp] theorem resetRegisters_ddsTone : (resetRegisters s).ddsTone = false := rfl
@[simp] theorem resetRegisters_afskSample : (resetRegisters s).afskSample = freeBits s 5 s.cfg.sampleBits := rfl
@[simp] theorem resetRegisters_hdlcSr : (resetRegisters s).hdlcSr = BitVec.ofNat 8 (freeBits s 6 8) := rfl
@[simp] theorem resetRegisters_hdlcBit : (resetRegisters s).hdlcBit = 7#3 := rfl
@[simp] theorem resetRegisters_hdlcOnes : (resetRegisters s).hdlcOnes = 0#3 := rfl
@[simp] theorem resetRegisters_hdlcStuff : (resetRegisters s).hdlcStuff = false := rfl
@[simp] theorem resetRegisters_hdlcRest : (resetRegisters s).hdlcRest = BitVec.ofNat 8 s.cfg.restIdle := rfl
@[simp] theorem resetRegisters_afskTxen : (resetRegisters s).afskTxen = false := rfl
@[simp] theorem resetRegisters_afskIe : (resetRegisters s).afskIe = false := rfl
@[simp] theorem resetRegisters_crc : (resetRegisters s).crc = Config.crcInit := rfl
@[simp] theorem resetRegisters_fbLen : (resetRegisters s).fbLen = 0 := rfl
@[simp] theorem resetRegisters_fbTrunc : (resetRegisters s).fbTrunc = false := rfl
@[simp] theorem resetRegisters_dataMem : (resetRegisters s).dataMem = s.dataMem := rfl
@[simp] theorem resetRegisters_constMem : (resetRegisters s).constMem = s.constMem := rfl
@[simp] theorem resetRegisters_cfg : (resetRegisters s).cfg = s.cfg := rfl
@[simp] theorem resetRegisters_hostIn : (resetRegisters s).hostIn = s.hostIn := rfl
@[simp] theorem resetRegisters_hostOut : (resetRegisters s).hostOut = s.hostOut := rfl
@[simp] theorem resetRegisters_hostHeld : (resetRegisters s).hostHeld = s.hostHeld := rfl
@[simp] theorem resetRegisters_sched : (resetRegisters s).sched = s.sched := rfl
@[simp] theorem resetRegisters_freeIdx : (resetRegisters s).freeIdx = s.freeIdx + 7 := rfl

/-! ### `emitBit`, which branches on the bit sent -/

@[simp] theorem emitBit_rttyPtr : (emitBit s).rttyPtr = s.rttyPtr := by unfold emitBit; split <;> rfl
@[simp] theorem emitBit_rttyLen : (emitBit s).rttyLen = s.rttyLen := by unfold emitBit; split <;> rfl
@[simp] theorem emitBit_rttyMode : (emitBit s).rttyMode = s.rttyMode := by unfold emitBit; split <;> rfl
@[simp] theorem emitBit_rttyClk : (emitBit s).rttyClk = s.rttyClk := by unfold emitBit; split <;> rfl
@[simp] theorem emitBit_rttyBit : (emitBit s).rttyBit = s.rttyBit := by unfold emitBit; split <;> rfl
@[simp] theorem emitBit_rttySr : (emitBit s).rttySr = s.rttySr := by unfold emitBit; split <;> rfl
@[simp] theorem emitBit_rttyLine : (emitBit s).rttyLine = s.rttyLine := by unfold emitBit; split <;> rfl
@[simp] theorem emitBit_rttyTxen : (emitBit s).rttyTxen = s.rttyTxen := by unfold emitBit; split <;> rfl
@[simp] theorem emitBit_rttyIe : (emitBit s).rttyIe = s.rttyIe := by unfold emitBit; split <;> rfl
@[simp] theorem emitBit_afskPtr : (emitBit s).afskPtr = s.afskPtr := by unfold emitBit; split <;> rfl
@[simp] theorem emitBit_afskLen : (emitBit s).afskLen = s.afskLen := by unfold emitBit; split <;> rfl
@[simp] theorem emitBit_afskMode : (emitBit s).afskMode = s.afskMode := by unfold emitBit; split <;> rfl
@[simp] theorem emitBit_afskClk : (emitBit s).afskClk = s.afskClk := by unfold emitBit; split <;> rfl
@[simp] theorem emitBit_ddsPhase : (emitBit s).ddsPhase = s.ddsPhase := by unfold emitBit; split <;> rfl
@[simp] theorem emitBit_ddsTone : (emitBit s).ddsTone = (if s.hdlcSr.getLsbD 0 then s.ddsTone else !s.ddsTone) := by unfold emitBit; split <;> rfl
@[simp] theorem emitBit_afskSample : (emitBit s).afskSample = s.afskSample := by unfold emitBit; split <;> rfl
@[simp] theorem emitBit_hdlcSr : (emitBit s).hdlcSr = s.hdlcSr >>> (1 : Nat) := by unfold emitBit; split <;> rfl
@[simp] theorem emitBit_hdlcBit : (emitBit s).hdlcBit = s.hdlcBit := by unfold emitBit; split <;> rfl
@[simp] theorem emitBit_hdlcOnes : (emitBit s).hdlcOnes = (if s.hdlcSr.getLsbD 0 then (if s.hdlcStuff then s.hdlcOnes + 1#3 else s.hdlcOnes) else 0#3) := by unfold emitBit; split <;> rfl
@[simp] theorem emitBit_hdlcStuff : (emitBit s).hdlcStuff = s.hdlcStuff := by unfold emitBit; split <;> rfl
@[simp] theorem emitBit_hdlcRest : (emitBit s).hdlcRest = s.hdlcRest := by unfold emitBit; split <;> rfl
@[simp] theorem emitBit_afskTxen : (emitBit s).afskTxen = s.afskTxen := by unfold emitBit; split <;> rfl
@[simp] theorem emitBit_afskIe : (emitBit s).afskIe = s.afskIe := by unfold emitBit; split <;> rfl
@[simp] theorem emitBit_crc : (emitBit s).crc = s.crc := by unfold emitBit; split <;> rfl
@[simp] theorem emitBit_fbLen : (emitBit s).fbLen = s.fbLen := by unfold emitBit; split <;> rfl
@[simp] theorem emitBit_fbTrunc : (emitBit s).fbTrunc = s.fbTrunc := by unfold emitBit; split <;> rfl
@[simp] theorem emitBit_dataMem : (emitBit s).dataMem = s.dataMem := by unfold emitBit; split <;> rfl
@[simp] theorem emitBit_constMem : (emitBit s).constMem = s.constMem := by unfold emitBit; split <;> rfl
@[simp] theorem emitBit_cfg : (emitBit s).cfg = s.cfg := by unfold emitBit; split <;> rfl
@[simp] theorem emitBit_hostIn : (emitBit s).hostIn = s.hostIn := by unfold emitBit; split <;> rfl
@[simp] theorem emitBit_hostOut : (emitBit s).hostOut = s.hostOut := by unfold emitBit; split <;> rfl
@[simp] theorem emitBit_hostHeld : (emitBit s).hostHeld = s.hostHeld := by unfold emitBit; split <;> rfl
@[simp] theorem emitBit_sched : (emitBit s).sched = s.sched := by unfold emitBit; split <;> rfl
@[simp] theorem emitBit_freeIdx : (emitBit s).freeIdx = s.freeIdx := by unfold emitBit; split <;> rfl

end Sys2Proof.Machine
end

