-- ==== Sys2Proof/Laws/Ops.lean ====
section
/-! SUPPORT. One lemma per shared operation, saying once everything it can do. -/

namespace Sys2Proof.Machine

/-! ### Sequencing -/

section Sequencing
variable {α β : Type}

@[simp] theorem andThen_next (a : α) (f : α → Res β) : Res.andThen (.next a) f = f a := rfl
@[simp] theorem andThen_fault (e : Fault) (f : α → Res β) : Res.andThen (.fault e) f = .fault e := rfl
@[simp] theorem andThen_refused (e : Refusal) (f : α → Res β) : Res.andThen (.refused e) f = .refused e := rfl

theorem andThen_eq_next {r : Res α} {f : α → Res β} {b : β} :
    Res.andThen r f = .next b ↔ ∃ a, r = .next a ∧ f a = .next b := by
  cases r <;> simp

theorem andThen_eq_fault {r : Res α} {f : α → Res β} {e : Fault} :
    Res.andThen r f = .fault e ↔ r = .fault e ∨ ∃ a, r = .next a ∧ f a = .fault e := by
  cases r <;> simp

theorem andThen_eq_refused {r : Res α} {f : α → Res β} {e : Refusal} :
    Res.andThen r f = .refused e ↔ r = .refused e ∨ ∃ a, r = .next a ∧ f a = .refused e := by
  cases r <;> simp

end Sequencing

/-! ### Memory primitives -/

theorem memRead_of_lt {s : State} {sp : Space} {a : Nat} (h : a < s.cfg.spaceSize) :
    memRead s sp a = .next (Mem.read (spaceMem s sp) a) := if_pos h

theorem memRead_of_ge {s : State} {sp : Space} {a : Nat} (h : ¬ a < s.cfg.spaceSize) :
    memRead s sp a = .fault (.memRange sp a) := if_neg h

theorem fetch_of_lt {s : State} {sp : Space} {a : Nat} (h : a < s.cfg.spaceSize) :
    fetch s sp a = .next (Mem.read (spaceMem s sp) a) := memRead_of_lt h

/-- A fetch answers the byte, inside the space only. -/
theorem fetch_eq_next {s : State} {sp : Space} {a : Nat} {b : Byte} :
    fetch s sp a = .next b ↔ a < s.cfg.spaceSize ∧ b = Mem.read (spaceMem s sp) a := by
  unfold fetch memRead
  split <;> simp_all [eq_comm]

theorem fetch_ne_refused {s : State} {sp : Space} {a : Nat} {e : Refusal} : fetch s sp a ≠ .refused e := by
  unfold fetch memRead; split <;> simp

theorem fetch_eq_fault {s : State} {sp : Space} {a : Nat} {e : Fault} :
    fetch s sp a = .fault e ↔ ¬ a < s.cfg.spaceSize ∧ e = .memRange sp a := by
  unfold fetch memRead
  split <;> simp_all [eq_comm]

theorem memWrite_of_lt {s : State} {a : Nat} {v : Byte} (h : a < s.cfg.spaceSize) :
    memWrite s a v = .next { s with dataMem := Mem.write s.dataMem a v } := if_pos h

theorem memWrite_eq_next {s t : State} {a : Nat} {v : Byte} :
    memWrite s a v = .next t ↔ a < s.cfg.spaceSize ∧ t = { s with dataMem := Mem.write s.dataMem a v } := by
  unfold memWrite
  split <;> simp_all [eq_comm]

theorem memWrite_ne_refused {s : State} {a : Nat} {v : Byte} {e : Refusal} : memWrite s a v ≠ .refused e := by
  unfold memWrite; split <;> simp

@[simp] theorem pendingBytes_length (s : State) (mode : Space) (ptr len : Nat) :
    (pendingBytes s mode ptr len).length = len := by simp [pendingBytes]

@[simp] theorem pendingBytes_zero (s : State) (mode : Space) (ptr : Nat) : pendingBytes s mode ptr 0 = [] := rfl

theorem pendingBytes_succ (s : State) (mode : Space) (ptr len : Nat) :
    pendingBytes s mode ptr (len + 1) =
      Mem.read (spaceMem s mode) ptr :: pendingBytes s mode (ptr + 1) len := by
  simp only [pendingBytes, List.range_succ_eq_map, List.map_cons, List.map_map, Nat.add_zero]
  congr 1
  apply List.map_congr_left
  intro j _
  simp only [Function.comp, Nat.succ_eq_add_one]
  congr 1
  omega

/-- Reading a range inside the space answers its bytes. -/
theorem fetchBytes_of_range {s : State} {mode : Space} : ∀ {n addr : Nat}, addr + n ≤ s.cfg.spaceSize →
    fetchBytes s mode addr n = .next (pendingBytes s mode addr n) := by
  intro n
  induction n with
  | zero => intros; rfl
  | succ n ih =>
    intro addr h
    rw [fetchBytes, fetch_of_lt (by omega), andThen_next, ih (by omega), andThen_next, pendingBytes_succ]

theorem fetchBytes_eq_next {s : State} {mode : Space} : ∀ {n addr : Nat} {bs : List Byte},
    fetchBytes s mode addr n = .next bs → bs = pendingBytes s mode addr n := by
  intro n
  induction n with
  | zero => intro addr bs h; simpa [fetchBytes, eq_comm] using h
  | succ n ih =>
    intro addr bs h
    obtain ⟨b, hb, h⟩ := andThen_eq_next.1 h
    obtain ⟨cs, hc, h⟩ := andThen_eq_next.1 h
    rw [pendingBytes_succ, ← ih hc, ← (fetch_eq_next.1 hb).2]
    simpa [eq_comm] using h

/-- What writing bytes in order can do: only DATA changes, exactly in the range, and the canonical form is kept. -/
structure WroteBytes (s : State) (addr : Nat) (bs : List Byte) (t : State) : Prop where
  frame : t = { s with dataMem := t.dataMem }
  wf : Mem.wf t.dataMem = true
  inSpace : Mem.inSpace s.cfg.spaceSize s.dataMem = true → Mem.inSpace s.cfg.spaceSize t.dataMem = true
  read : ∀ x, Mem.read t.dataMem x =
    if addr ≤ x ∧ x < addr + bs.length then (bs[x - addr]?).getD 0#8 else Mem.read s.dataMem x

theorem memWriteBytes_spec : ∀ {bs : List Byte} {s t : State} {addr : Nat}, Mem.wf s.dataMem = true →
    memWriteBytes s addr bs = .next t → WroteBytes s addr bs t := by
  intro bs
  induction bs with
  | nil =>
    intro s t addr hwf h
    obtain rfl : s = t := by simpa [memWriteBytes] using h
    exact ⟨rfl, hwf, id, fun x => by rw [if_neg (by simp)]⟩
  | cons b bs ih =>
    intro s t addr hwf h
    obtain ⟨u, hu, h⟩ := andThen_eq_next.1 h
    obtain ⟨ha, rfl⟩ := memWrite_eq_next.1 hu
    obtain ⟨hf, hw, hi, hr⟩ := ih (Mem.wf_write addr b hwf) h
    refine ⟨hf, hw, fun hs => hi (Mem.inSpace_write addr b ha hs), fun x => ?_⟩
    rw [hr x]
    show (if addr + 1 ≤ x ∧ x < addr + 1 + bs.length then _ else Mem.read (Mem.write s.dataMem addr b) x) = _
    rw [Mem.read_write addr b x hwf]
    by_cases hx : x = addr
    · subst hx
      rw [if_neg (by omega), if_pos rfl, if_pos (by simp)]
      simp
    · rw [if_neg hx]
      by_cases h1 : addr + 1 ≤ x ∧ x < addr + 1 + bs.length
      · rw [if_pos h1, if_pos (by simp; omega)]
        obtain ⟨j, rfl⟩ : ∃ j, x = addr + 1 + j := ⟨x - (addr + 1), by omega⟩
        rw [show addr + 1 + j - (addr + 1) = j by omega, show addr + 1 + j - addr = j + 1 by omega]
        simp
      · rw [if_neg h1, if_neg (by simp only [List.length_cons]; omega)]

/-- Writing a range inside the space answers a next state. -/
theorem memWriteBytes_of_range : ∀ {bs : List Byte} {s : State} {addr : Nat}, addr + bs.length ≤ s.cfg.spaceSize →
    ∃ t, memWriteBytes s addr bs = .next t := by
  intro bs
  induction bs with
  | nil => intro s addr _; exact ⟨s, rfl⟩
  | cons b bs ih =>
    intro s addr h
    simp only [List.length_cons] at h
    rw [memWriteBytes, memWrite_of_lt (by omega), andThen_next]
    exact ih (s := { s with dataMem := Mem.write s.dataMem addr b }) (by simpa using by omega)

theorem memWriteBytes_ne_refused : ∀ {bs : List Byte} {s : State} {addr : Nat} {e : Refusal},
    memWriteBytes s addr bs ≠ .refused e := by
  intro bs
  induction bs with
  | nil => intros; simp [memWriteBytes]
  | cons b bs ih =>
    intro s addr e h
    rcases andThen_eq_refused.1 h with h | ⟨u, _, h⟩
    · exact memWrite_ne_refused h
    · exact ih h

/-! ### Ownership -/

theorem descriptorOwns_iff {mode : Space} {ptr len a : Nat} :
    descriptorOwns mode ptr len a = true ↔ mode = .data ∧ len ≠ 0 ∧ ptr ≤ a ∧ a < ptr + len := by
  simp [descriptorOwns, and_assoc]

/-- What owning an address means (20_memory.md R74). -/
theorem owned_iff {s : State} {a : Nat} :
    owned s a = true ↔
      (s.rttyMode = .data ∧ s.rttyLen ≠ 0 ∧ s.rttyPtr ≤ a ∧ a < s.rttyPtr + s.rttyLen) ∨
      (s.afskMode = .data ∧ s.afskLen ≠ 0 ∧ s.afskPtr ≤ a ∧ a < s.afskPtr + s.afskLen) := by
  simp only [owned, Bool.or_eq_true, descriptorOwns_iff]

theorem firstOwned_eq_none {s : State} : ∀ {n addr : Nat}, firstOwned s addr n = none ↔ Unowned s addr n := by
  intro n
  induction n with
  | zero => intro addr; simp [firstOwned, Unowned]; omega
  | succ n ih =>
    intro addr
    rw [firstOwned]
    split
    · next h =>
      simp only [reduceCtorEq, false_iff]
      intro hu
      have := hu addr (Nat.le_refl _) (by omega)
      simp_all
    · next h =>
      rw [ih]
      constructor
      · intro hu a h1 h2
        by_cases ha : a = addr
        · subst ha; simpa using h
        · exact hu a (by omega) (by omega)
      · intro hu a h1 h2
        exact hu a (by omega) (by omega)

/-- The address a refused write reports is owned, in the range, and the lowest such. -/
theorem firstOwned_eq_some {s : State} : ∀ {n addr a : Nat}, firstOwned s addr n = some a →
    addr ≤ a ∧ a < addr + n ∧ owned s a = true ∧ ∀ x, addr ≤ x → x < a → owned s x = false := by
  intro n
  induction n with
  | zero => intro addr a h; simp [firstOwned] at h
  | succ n ih =>
    intro addr a h
    rw [firstOwned] at h
    split at h
    · next ho =>
      obtain rfl : addr = a := by simpa using h
      exact ⟨Nat.le_refl _, by omega, ho, fun x h1 h2 => absurd h2 (by omega)⟩
    · next ho =>
      obtain ⟨h1, h2, h3, h4⟩ := ih h
      refine ⟨by omega, by omega, h3, fun x hx1 hx2 => ?_⟩
      by_cases hx : x = addr
      · subst hx; simpa using ho
      · exact h4 x (by omega) hx2

/-- A lowest owned address of the range is the one found. -/
theorem firstOwned_of_lowest {s : State} {n addr a : Nat} (h1 : addr ≤ a) (h2 : a < addr + n) (h3 : owned s a = true)
    (h4 : ∀ x, addr ≤ x → x < a → owned s x = false) : firstOwned s addr n = some a := by
  cases hf : firstOwned s addr n with
  | none =>
    have := firstOwned_eq_none.1 hf a h1 h2
    simp_all
  | some b =>
    obtain ⟨g1, _, g3, g4⟩ := firstOwned_eq_some hf
    rcases Nat.lt_trichotomy a b with h | h | h
    · have := g4 a h1 h; simp_all
    · rw [h]
    · have := h4 b g1 h; simp_all

theorem refuseOwned_eq_next {s t : State} {addr n : Nat} {k : Res State} :
    refuseOwned s addr n k = .next t ↔ Unowned s addr n ∧ k = .next t := by
  unfold refuseOwned
  split
  · next a h =>
    simp only [reduceCtorEq, false_iff]
    rintro ⟨hu, -⟩
    rw [firstOwned_eq_none.2 hu] at h
    cases h
  · next h => exact ⟨fun hk => ⟨firstOwned_eq_none.1 h, hk⟩, fun hk => hk.2⟩

theorem refuseOwned_of_unowned {s : State} {addr n : Nat} {k : Res State} (h : Unowned s addr n) :
    refuseOwned s addr n k = k := by
  unfold refuseOwned; rw [firstOwned_eq_none.2 h]

theorem refuseOwned_eq_fault {s : State} {addr n : Nat} {k : Res State} {e : Fault}
    (h : refuseOwned s addr n k = .fault e) : k = .fault e := by
  unfold refuseOwned at h; split at h
  · cases h
  · exact h

/-- What a checked write of a range can do, if it goes on. -/
theorem writeRange_spec {s t : State} {addr : Nat} {bs : List Byte} (hwf : Mem.wf s.dataMem = true)
    (h : writeRange s addr bs = .next t) : Unowned s addr bs.length ∧ WroteBytes s addr bs t := by
  obtain ⟨hu, h⟩ := refuseOwned_eq_next.1 h
  exact ⟨hu, memWriteBytes_spec hwf h⟩

theorem writeRange_of_range {s : State} {addr : Nat} {bs : List Byte} (hu : Unowned s addr bs.length)
    (hr : addr + bs.length ≤ s.cfg.spaceSize) : ∃ t, writeRange s addr bs = .next t := by
  unfold writeRange
  rw [refuseOwned_of_unowned hu]
  exact memWriteBytes_of_range hr

/-- Writing bytes changes DATA only, whatever the memory's form. -/
theorem memWriteBytes_frame : ∀ {bs : List Byte} {s t : State} {addr : Nat},
    memWriteBytes s addr bs = .next t → t = { s with dataMem := t.dataMem } := by
  intro bs
  induction bs with
  | nil => intro s t addr h; obtain rfl : s = t := by simpa [memWriteBytes] using h
           rfl
  | cons b bs ih =>
    intro s t addr h
    obtain ⟨u, hu, h⟩ := andThen_eq_next.1 h
    obtain ⟨-, rfl⟩ := memWrite_eq_next.1 hu
    have := ih h
    exact this

theorem writeRange_frame {s t : State} {addr : Nat} {bs : List Byte} (h : writeRange s addr bs = .next t) :
    t = { s with dataMem := t.dataMem } :=
  memWriteBytes_frame (refuseOwned_eq_next.1 h).2

/-! ### Operand checks -/

theorem requireRange_eq_next {c : Config} {op : Byte} {f : Field} {addr n : Nat} {k : Res State} {t : State} :
    requireRange c op f addr n k = .next t ↔ rangeOk c addr n ∧ k = .next t := by
  unfold requireRange; split <;> simp_all

theorem requireRange_of_ok {c : Config} {op : Byte} {f : Field} {addr n : Nat} {k : Res State} (h : rangeOk c addr n) :
    requireRange c op f addr n k = k := if_pos h

theorem requireRange_of_bad {c : Config} {op : Byte} {f : Field} {addr n : Nat} {k : Res State} (h : ¬ rangeOk c addr n) :
    requireRange c op f addr n k = .refused (.badOperand op f) := if_neg h

theorem requireCall_eq_next {op : Byte} {f : Field} {call : Call} {k : Res State} {t : State} :
    requireCall op f call k = .next t ↔ call.WF ∧ k = .next t := by
  unfold requireCall; split <;> simp_all

theorem requireCall_of_ok {op : Byte} {f : Field} {call : Call} {k : Res State} (h : call.WF) :
    requireCall op f call k = k := if_pos h

theorem requireCall_of_bad {op : Byte} {f : Field} {call : Call} {k : Res State} (h : ¬ call.WF) :
    requireCall op f call k = .refused (.badOperand op f) := if_neg h

/-! ### Conditions and widths -/

@[simp] theorem rttyBusy_iff {s : State} : rttyBusy s = true ↔ s.rttyLen ≠ 0 := by simp [rttyBusy]
@[simp] theorem afskBusy_iff {s : State} : afskBusy s = true ↔ s.afskLen ≠ 0 := by simp [afskBusy]

theorem trunc_lt (w v : Nat) : trunc w v < 2 ^ w := Nat.mod_lt _ (Nat.two_pow_pos w)

theorem trunc_of_lt {w v : Nat} (h : v < 2 ^ w) : trunc w v = v := Nat.mod_eq_of_lt h

/-- The symbol clock counts up, and returns to 0 exactly at a boundary (40_symbol_clock.md R131). -/
theorem symClk_cases (clk n : Nat) :
    (clk + 1 < n ∧ symClk clk n = (clk + 1, false)) ∨ (n ≤ clk + 1 ∧ symClk clk n = (0, true)) := by
  unfold symClk
  split
  · next h => exact .inl ⟨h, rfl⟩
  · next h => exact .inr ⟨by omega, rfl⟩

end Sys2Proof.Machine
end

