-- ==== Sys2Proof/Laws/Commands.lean ====
section
/-! SUPPORT. What each host command can do when it goes on: one lemma per command, and the lengths its result rests on. -/

namespace Sys2Proof.Machine

/-! ### Runs of one operation -/

theorem repeatOp_add (i : Instr) (a b : Nat) (s : State) :
    repeatOp i (a + b) s = Res.andThen (repeatOp i a s) (repeatOp i b) := by
  induction a generalizing s with
  | zero => simp [repeatOp]
  | succ a ih =>
    rw [Nat.succ_add, repeatOp, repeatOp]
    cases exec i s with
    | next t => simp only [andThen_next]; exact ih t
    | fault e => rfl
    | refused e => rfl

/-- The last repetition, rather than the first, taken apart. -/
theorem repeatOp_succ_last (i : Instr) (k : Nat) (s : State) :
    repeatOp i (k + 1) s = Res.andThen (repeatOp i k s) (exec i) := by
  rw [repeatOp_add]
  congr 1
  funext t
  simp only [repeatOp]
  cases exec i t <;> rfl

/-! ### Turns -/

theorem tickTurn_eq (s : State) : tickTurn s = exec .tick s := rfl

/-- Deciding whose turn it is touches the schedule and the free-value counter only. -/
theorem nextTurn_frame (s : State) :
    (nextTurn s).2 = { s with sched := (nextTurn s).2.sched, freeIdx := (nextTurn s).2.freeIdx } := by
  unfold nextTurn
  split
  · rfl
  · split
    · rfl
    · split <;> rfl

theorem step_host {s u : State} (h : nextTurn s = (.host, u)) : step s = hostTurn u := by simp [step, h, runTurn]

theorem step_tick {s u : State} (h : nextTurn s = (.tick, u)) : step s = exec .tick u := by
  simp [step, h, runTurn, tickTurn]

/-- The opcodes of the tick agent name TICK and its two halves. -/
theorem decodeEvent_cases {c : Config} {op : Byte} {i : Instr} (h : decodeEvent c op = some i) :
    i = .tick ∨ i = .rttyTick ∨ i = .afskTick := by
  unfold decodeEvent at h
  split at h
  · split at h
    · cases h
    · next ha => cases h; cases i <;> simp_all [Instr.agent]
  · cases h

/-! ### RTTY and AFSK commands -/

/-- RTTY.SUBMIT that goes on held, or handed the buffer over. -/
theorem execRttySubmit_cases {s t : State} {mode : Space} {addr len : Nat} (h : execRttySubmit mode addr len s = .next t) :
    addr + len ≤ s.cfg.spaceSize ∧
    ((s.rttyLen ≠ 0 ∧ t = { s with hostHeld := true }) ∨
     (s.rttyLen = 0 ∧ t = { s with rttyPtr := addr, rttyLen := len, rttyMode := mode })) := by
  obtain ⟨hr, h⟩ := requireRange_eq_next.1 h
  refine ⟨hr, ?_⟩
  split at h
  · next hb => cases h; exact .inl ⟨by simpa using hb, rfl⟩
  · next hb => cases h; exact .inr ⟨by simpa using hb, rfl⟩

/-- AFSK.SUBMIT that goes on held, or handed the buffer over and started the transmitter. -/
theorem execAfskSubmit_cases {s t : State} {mode : Space} {addr len : Nat} (h : execAfskSubmit mode addr len s = .next t) :
    addr + len ≤ s.cfg.spaceSize ∧
    ((s.afskLen ≠ 0 ∧ t = { s with hostHeld := true }) ∨
     (s.afskLen = 0 ∧
       t = { s with afskPtr := addr, afskLen := len, afskMode := mode, afskTxen := true, afskIe := true })) := by
  obtain ⟨hr, h⟩ := requireRange_eq_next.1 h
  refine ⟨hr, ?_⟩
  split at h
  · next hb => cases h; exact .inl ⟨by simpa using hb, rfl⟩
  · next hb => cases h; exact .inr ⟨by simpa using hb, rfl⟩

theorem execRttyWait_frame {s t : State} (h : execRttyWait s = .next t) : t = { s with hostHeld := t.hostHeld } := by
  unfold execRttyWait at h; split at h <;> cases h <;> rfl

theorem execAfskWait_frame {s t : State} (h : execAfskWait s = .next t) : t = { s with hostHeld := t.hostHeld } := by
  unfold execAfskWait at h; split at h <;> cases h <;> rfl

/-! ### System commands -/

/-- HOST.ST that goes on wrote one unowned byte of the space. -/
theorem execHostSt_cases {s t : State} {addr : Nat} {b : Byte} (h : execHostSt addr b s = .next t) :
    owned s addr = false ∧ addr < s.cfg.spaceSize ∧ t = { s with dataMem := Mem.write s.dataMem addr b } := by
  obtain ⟨hu, h⟩ := refuseOwned_eq_next.1 h
  exact ⟨hu addr (Nat.le_refl _) (by omega), memWrite_eq_next.1 h⟩

theorem execHostLd_frame {s t : State} {mode : Space} {addr : Nat} (h : execHostLd mode addr s = .next t) :
    t = { s with hostOut := t.hostOut } := by
  obtain ⟨b, _, h⟩ := andThen_eq_next.1 h
  cases h; rfl

/-! ### Base-91 -/

@[simp] theorem b91_length (v w : Nat) : (b91 v w).length = w := by
  induction w generalizing v with
  | zero => rfl
  | succ w ih => simp [b91, ih]

theorem execB91Enc_frame {s t : State} {v dst : Nat} {w : Byte} (h : execB91Enc v w dst s = .next t) :
    t = { s with dataMem := t.dataMem } :=
  writeRange_frame (requireRange_eq_next.1 h).2

/-! ### CRC and frame builder -/

theorem crcRounds_eq_iterate (n : Nat) (c : Word16) : crcRounds n c = crcRound^[n] c := by
  induction n generalizing c with
  | zero => rfl
  | succ n ih => rw [crcRounds, ih]; rfl

/-- A round is linear: it goes through an exclusive or. -/
theorem crcRound_xor (a b : Word16) : crcRound (a ^^^ b) = crcRound a ^^^ crcRound b := by
  unfold crcRound
  have h : (a ^^^ b).getLsbD 0 = (a.getLsbD 0 ^^ b.getLsbD 0) := by simp
  rw [h]
  cases a.getLsbD 0 <;> cases b.getLsbD 0 <;> simp [BitVec.ushiftRight_xor_distrib]
  · ac_rfl
  · ac_rfl
  · rw [show ∀ x y p : Word16, x ^^^ p ^^^ (y ^^^ p) = (x ^^^ y) ^^^ (p ^^^ p) by intros; ac_rfl, BitVec.xor_self, BitVec.xor_zero]

theorem crcRounds_xor (n : Nat) (a b : Word16) : crcRounds n (a ^^^ b) = crcRounds n a ^^^ crcRounds n b := by
  induction n generalizing a b with
  | zero => rfl
  | succ n ih => rw [crcRounds, crcRound_xor, ih]; rfl

theorem addrField_length {k : Call} {ssid : Byte} {last : Bool} (h : k.WF) : (addrField k ssid last).length = 7 := by
  have : k.n.toNat ≤ 6 := h
  simp [addrField, paddedCall, Call.chars, Config.callLen]; omega

theorem frameHeader_length {a : BuildArgs} (h1 : a.dcall.WF) (h2 : a.scall.WF) (h3 : a.p1call.WF) (h4 : a.p2call.WF) :
    (frameHeader a).length = 7 * (2 + a.p1.toNat + a.p2.toNat) + 2 := by
  unfold frameHeader
  cases a.p1 <;> cases a.p2 <;> simp [addrField_length, h1, h2, h3, h4]

theorem frameBytes_length {c : Config} {a : BuildArgs} {payload : List Byte} (h1 : a.dcall.WF) (h2 : a.scall.WF)
    (h3 : a.p1call.WF) (h4 : a.p2call.WF) :
    (frameBytes c a payload).length = 7 * (2 + a.p1.toNat + a.p2.toNat) + 4 +
      min payload.length (c.frameCap - 7 * (2 + a.p1.toNat + a.p2.toNat) - 4) := by
  simp [frameBytes, frameBody, frameRoom, frameHeader_length h1 h2 h3 h4, fcsBytes]
  omega

/-- A frame fits its buffer (44_frame_builder.md R212). -/
theorem frameBytes_le_cap {c : Config} {a : BuildArgs} {payload : List Byte} (hc : 32 ≤ c.frameCap) (h1 : a.dcall.WF)
    (h2 : a.scall.WF) (h3 : a.p1call.WF) (h4 : a.p2call.WF) : (frameBytes c a payload).length ≤ c.frameCap := by
  rw [frameBytes_length h1 h2 h3 h4]
  cases a.p1 <;> cases a.p2 <;> simp <;> omega

/-- FB.BUILD that goes on read its payload, wrote the frame, and set its three registers. -/
theorem execFbBuild_cases {s t : State} {a : BuildArgs} (h : execFbBuild a s = .next t) :
    a.dcall.WF ∧ a.scall.WF ∧ a.p1call.WF ∧ a.p2call.WF ∧ rangeOk s.cfg a.dst s.cfg.frameCap ∧
    rangeOk s.cfg a.paddr a.plen ∧
    ∃ u, writeRange s a.dst (frameBytes s.cfg a (pendingBytes s a.pmode a.paddr a.plen)) = .next u ∧
      t = { u with
        crc := frameCrc s.cfg a (pendingBytes s a.pmode a.paddr a.plen)
        fbLen := (frameBytes s.cfg a (pendingBytes s a.pmode a.paddr a.plen)).length
        fbTrunc := frameTrunc s.cfg a (pendingBytes s a.pmode a.paddr a.plen) } := by
  simp only [execFbBuild, requireCall_eq_next, requireRange_eq_next] at h
  obtain ⟨g1, g2, g3, g4, g5, g6, h⟩ := h
  refine ⟨g1, g2, g3, g4, g5, g6, ?_⟩
  unfold buildFrame at h
  rw [fetchBytes_of_range g6, andThen_next] at h
  obtain ⟨u, hu, h⟩ := andThen_eq_next.1 h
  cases h
  exact ⟨u, hu, rfl⟩

theorem execFbBuild_frame {s t : State} {a : BuildArgs} (h : execFbBuild a s = .next t) :
    t = { s with dataMem := t.dataMem, crc := t.crc, fbLen := t.fbLen, fbTrunc := t.fbTrunc } := by
  obtain ⟨-, -, -, -, -, -, u, hu, rfl⟩ := execFbBuild_cases h
  have := writeRange_frame hu
  rw [this]

end Sys2Proof.Machine
end

