-- ==== Sys2Proof/Laws/Ticks.lean ====
section
/-! SUPPORT. What a tick can do: one inversion lemma per half (41_rtty.md R146, 43_hdlc.md R174 to R180), from which every
invariant of a tick follows without unfolding it. -/

namespace Sys2Proof.Machine

/-- The six things the RTTY half of a tick can do to the state. -/
inductive RttyTicked (s : State) : State → Prop where
  /-- Masked: nothing. -/
  | off (h : s.rttyIe = false) : RttyTicked s s
  /-- Not a boundary: the clock counts. -/
  | count (h : s.rttyIe = true) (hk : s.rttyClk + 1 < s.cfg.nRtty) :
      RttyTicked s { s with rttyClk := s.rttyClk + 1 }
  /-- START, nothing to send. -/
  | idle (h : s.rttyIe = true) (hk : s.cfg.nRtty ≤ s.rttyClk + 1) (hb : s.rttyBit = 0#4) (hl : s.rttyLen = 0) :
      RttyTicked s { s with rttyClk := 0, rttyLine := true }
  /-- START, a byte fetched. -/
  | start (h : s.rttyIe = true) (hk : s.cfg.nRtty ≤ s.rttyClk + 1) (hb : s.rttyBit = 0#4) (hl : s.rttyLen ≠ 0)
      (hp : s.rttyPtr < s.cfg.spaceSize) :
      RttyTicked s { s with
        rttyClk := 0
        rttySr := Mem.read (spaceMem s s.rttyMode) s.rttyPtr
        rttyPtr := trunc s.cfg.addrBits (s.rttyPtr + 1)
        rttyLen := s.rttyLen - 1
        rttyLine := false
        rttyBit := 1#4 }
  /-- A data bit. -/
  | data (h : s.rttyIe = true) (hk : s.cfg.nRtty ≤ s.rttyClk + 1) (hb : s.rttyBit ≠ 0#4) (h8 : s.rttyBit.toNat ≤ 8) :
      RttyTicked s (rttyData { s with rttyClk := 0 })
  /-- The stop bit. -/
  | stop (h : s.rttyIe = true) (hk : s.cfg.nRtty ≤ s.rttyClk + 1) (h9 : 8 < s.rttyBit.toNat) :
      RttyTicked s (rttyStop { s with rttyClk := 0 })

/-- Everything the RTTY half of a tick can do, if it goes on. -/
theorem rttyTickStep_cases {s t : State} (h : rttyTickStep s = .next t) : RttyTicked s t := by
  unfold rttyTickStep at h
  split at h
  · next hie =>
    rcases symClk_cases s.rttyClk s.cfg.nRtty with ⟨hk, e⟩ | ⟨hk, e⟩ <;> rw [e] at h <;> simp only at h
    · cases h; exact .count hie hk
    · unfold rttyFrameBit at h
      split at h
      · next hb =>
        split at h
        · next hl => cases h; exact .idle hie hk hb hl
        · next hl =>
          obtain ⟨b, hf, h⟩ := andThen_eq_next.1 h
          obtain ⟨hp, rfl⟩ := fetch_eq_next.1 hf
          cases h
          exact .start hie hk hb hl hp
      · next hb =>
        split at h
        · next h8 => cases h; exact .data hie hk hb h8
        · next h8 => cases h; exact .stop hie hk (by simpa [Config.rttyDataBits] using h8)
  · next hie => cases h; exact .off (by simpa using hie)

/-- The state after the DDS part and the symbol clock of a boundary tick, before the bit logic (43_hdlc.md R174). -/
abbrev atBoundary (s : State) : State := { ddsStep s with afskClk := 0 }

/-- The things the bit logic can do to the state at a boundary. -/
inductive HdlcStepped (s : State) : State → Prop where
  /-- The stuffed 0. -/
  | stuffed (h5 : s.hdlcOnes = 5#3) : HdlcStepped s (stuffZero s)
  /-- The shutdown, in the state where `hdlc_rest` has just reached 0. -/
  | shut (h5 : s.hdlcOnes ≠ 5#3) (h7 : s.hdlcBit = 7#3) (hf : flagDue s = true) (hr : s.hdlcRest = 1#8) :
      HdlcStepped s (shutdown s)
  /-- A flag loaded, its first bit sent. -/
  | flag (h5 : s.hdlcOnes ≠ 5#3) (h7 : s.hdlcBit = 7#3) (hf : flagDue s = true) (hr : s.hdlcRest ≠ 1#8) :
      HdlcStepped s (emitBit { loadFlag { s with hdlcRest := s.hdlcRest - 1#8 } with hdlcBit := 0#3 })
  /-- A content byte fetched, its first bit sent. -/
  | content (h5 : s.hdlcOnes ≠ 5#3) (h7 : s.hdlcBit = 7#3) (hf : flagDue s = false) (hp : s.afskPtr < s.cfg.spaceSize) :
      HdlcStepped s (emitBit { s with
        hdlcSr := Mem.read (spaceMem s s.afskMode) s.afskPtr
        afskPtr := trunc s.cfg.addrBits (s.afskPtr + 1)
        afskLen := s.afskLen - 1
        hdlcRest := if s.afskLen - 1 = 0 then BitVec.ofNat 8 (s.cfg.restCount + 2) else s.hdlcRest
        hdlcStuff := true
        hdlcBit := 0#3 })
  /-- The next bit of the current byte. -/
  | bit (h5 : s.hdlcOnes ≠ 5#3) (h7 : s.hdlcBit ≠ 7#3) :
      HdlcStepped s (emitBit { s with hdlcBit := s.hdlcBit + 1#3 })

theorem rest_sub_one_eq_zero {r : BitVec 8} : r - 1#8 = 0#8 ↔ r = 1#8 := by
  constructor
  · intro h; bv_omega
  · rintro rfl; rfl

/-- Everything the bit logic can do at a boundary, if it goes on. -/
theorem hdlcBitStep_cases {s t : State} (h : hdlcBitStep s = .next t) : HdlcStepped s t := by
  unfold hdlcBitStep at h
  split at h
  · next h5 => cases h; exact .stuffed h5
  · next h5 =>
    split at h
    · next h7 =>
      obtain ⟨⟨u, shut⟩, hu, h⟩ := andThen_eq_next.1 h
      unfold byteBoundary at hu
      split at hu
      · next hf =>
        split at hu
        · next hr =>
          cases hu
          cases h
          exact .shut h5 h7 hf (rest_sub_one_eq_zero.1 hr)
        · next hr =>
          cases hu
          cases h
          exact .flag h5 h7 hf (fun e => hr (rest_sub_one_eq_zero.2 e))
      · next hf =>
        obtain ⟨v, hv, hu⟩ := andThen_eq_next.1 hu
        obtain ⟨b, hb, hv⟩ := andThen_eq_next.1 hv
        obtain ⟨hp, rfl⟩ := fetch_eq_next.1 hb
        cases hv
        cases hu
        cases h
        exact .content h5 h7 (by simpa using hf) hp
    · next h7 => cases h; exact .bit h5 h7

/-- The three shapes of the AFSK half of a tick. -/
inductive AfskTicked (s : State) : State → Prop where
  /-- Masked: nothing. -/
  | off (h : s.afskIe = false) : AfskTicked s s
  /-- Not a boundary: the DDS advances and the clock counts. -/
  | count (h : s.afskIe = true) (hk : s.afskClk + 1 < s.cfg.nAfsk) :
      AfskTicked s { ddsStep s with afskClk := s.afskClk + 1 }
  /-- A bit boundary. -/
  | boundary (h : s.afskIe = true) (hk : s.cfg.nAfsk ≤ s.afskClk + 1) (t : State) (ht : HdlcStepped (atBoundary s) t) :
      AfskTicked s t

/-- Everything the AFSK half of a tick can do, if it goes on. -/
theorem afskTickStep_cases {s t : State} (h : afskTickStep s = .next t) : AfskTicked s t := by
  unfold afskTickStep at h
  split at h
  · next hie =>
    rcases symClk_cases s.afskClk s.cfg.nAfsk with ⟨hk, e⟩ | ⟨hk, e⟩ <;> rw [e] at h <;> simp only at h
    · cases h; exact .count hie hk
    · exact .boundary hie hk t (hdlcBitStep_cases h)
  · next hie => cases h; exact .off (by simpa using hie)

/-- A `TICK` that goes on is its two halves, in order (40_symbol_clock.md R133). -/
theorem execTick_cases {s t : State} (h : execTick s = .next t) : ∃ u, RttyTicked s u ∧ AfskTicked u t := by
  obtain ⟨u, hu, h⟩ := andThen_eq_next.1 h
  exact ⟨u, rttyTickStep_cases hu, afskTickStep_cases h⟩

theorem flagDue_iff {s : State} : flagDue s = true ↔ s.cfg.restCount < s.hdlcRest.toNat ∨ s.afskLen = 0 := by
  simp [flagDue]

theorem flagDue_eq_false {s : State} : flagDue s = false ↔ s.hdlcRest.toNat ≤ s.cfg.restCount ∧ s.afskLen ≠ 0 := by
  simp [flagDue]

end Sys2Proof.Machine
end

