-- ==== Sys2Proof/Laws/Lines.lean ====
section
/-! SUPPORT. The bits the HDLC framer has yet to send, as its registers stand, and what one bit period does to them
(43_hdlc.md R175 to R184). -/

namespace Sys2Proof.Machine

/-! ### The bits of a byte -/

/-- The bits of the byte in the shift register not yet sent, the last one sent being bit `bit`. -/
def bitsLeft (bit : Nat) (sr : Byte) : List Bool := (List.range (7 - bit)).map sr.getLsbD

theorem bitsLeft_cons {bit : Nat} (sr : Byte) (h : bit < 7) :
    bitsLeft bit sr = sr.getLsbD 0 :: bitsLeft (bit + 1) (sr >>> (1 : Nat)) := by
  unfold bitsLeft
  rw [show 7 - bit = (7 - (bit + 1)) + 1 by omega, List.range_succ_eq_map, List.map_cons, List.map_map]
  congr 1
  apply List.map_congr_left
  intro i _
  simp [Nat.add_comm]

theorem byteBits_cons (sr : Byte) : byteBits sr = sr.getLsbD 0 :: bitsLeft 0 (sr >>> (1 : Nat)) := by
  unfold byteBits bitsLeft
  rw [List.range_succ_eq_map, List.map_cons, List.map_map]
  congr 1

theorem flagRun_succ (n : Nat) : flagRun (n + 1) = byteBits Config.flag ++ flagRun n := by
  simp [flagRun, List.replicate_succ, flagBits, lsbBits]

theorem hdlcBit_step {b : BitVec 3} (h : b ≠ 7#3) : b.toNat < 7 ∧ (b + 1#3).toNat = b.toNat + 1 := by
  have : b.toNat ≠ 7 := fun e => h (BitVec.eq_of_toNat_eq (by simpa using e))
  have := b.isLt
  constructor
  · omega
  · bv_omega

/-- `Stuff` where five 1s may already have been sent and their 0 is due. -/
def stuffDue (n : Nat) (xs : List Bool) : List Bool :=
  if n = 5 then false :: stuffFrom 0 xs else stuffFrom n xs

theorem stuffDue_cons {n : Nat} (x : Bool) (xs : List Bool) (h : n < 5) :
    stuffDue n (x :: xs) = x :: stuffDue (if x then n + 1 else 0) xs := by
  unfold stuffDue
  rw [if_neg (by omega)]
  cases x
  · simp [stuffFrom]
  · simp [stuffFrom, Config.stuffRun]
    split <;> rfl

/-! ### The ways a bit period goes -/

theorem hdlcBitStep_mid {s : State} (h5 : s.hdlcOnes ≠ 5#3) (h7 : s.hdlcBit ≠ 7#3) :
    hdlcBitStep s = .next (emitBit { s with hdlcBit := s.hdlcBit + 1#3 }) := by
  unfold hdlcBitStep; rw [if_neg h5, if_neg h7]

theorem hdlcBitStep_flag {s : State} (h5 : s.hdlcOnes ≠ 5#3) (h7 : s.hdlcBit = 7#3) (hf : flagDue s = true)
    (h1 : s.hdlcRest ≠ 1#8) :
    hdlcBitStep s = .next (emitBit { loadFlag { s with hdlcRest := s.hdlcRest - 1#8 } with hdlcBit := 0#3 }) := by
  unfold hdlcBitStep byteBoundary
  rw [if_neg h5, if_pos h7, if_pos hf, if_neg (fun e => h1 (rest_sub_one_eq_zero.1 e))]; rfl

theorem hdlcBitStep_shut {s : State} (h5 : s.hdlcOnes ≠ 5#3) (h7 : s.hdlcBit = 7#3) (hf : flagDue s = true)
    (h1 : s.hdlcRest = 1#8) : hdlcBitStep s = .next (shutdown s) := by
  unfold hdlcBitStep byteBoundary
  rw [if_neg h5, if_pos h7, if_pos hf, if_pos (rest_sub_one_eq_zero.2 h1)]; rfl

/-- The state with the next content byte loaded (43_hdlc.md R178). -/
abbrev withContent (s : State) : State :=
  { s with
    hdlcSr := Mem.read (spaceMem s s.afskMode) s.afskPtr
    afskPtr := trunc s.cfg.addrBits (s.afskPtr + 1)
    afskLen := s.afskLen - 1
    hdlcRest := if s.afskLen - 1 = 0 then BitVec.ofNat 8 (s.cfg.restCount + 2) else s.hdlcRest
    hdlcStuff := true
    hdlcBit := 0#3 }

theorem hdlcBitStep_content {s : State} (h5 : s.hdlcOnes ≠ 5#3) (h7 : s.hdlcBit = 7#3) (hf : flagDue s = false)
    (hp : s.afskPtr < s.cfg.spaceSize) : hdlcBitStep s = .next (emitBit (withContent s)) := by
  unfold hdlcBitStep byteBoundary loadContent
  rw [if_neg h5, if_pos h7, if_neg (by simp [hf]), fetch_of_lt hp]; rfl

theorem hdlcBitStep_stuffed {s : State} (h5 : s.hdlcOnes = 5#3) : hdlcBitStep s = .next (stuffZero s) := by
  unfold hdlcBitStep; rw [if_pos h5]

/-- A bit boundary runs the bit logic after the DDS part (43_hdlc.md R174). -/
theorem afskTickStep_boundary {s : State} (h : s.afskIe = true) (hk : s.cfg.nAfsk ≤ s.afskClk + 1) :
    afskTickStep s = hdlcBitStep (atBoundary s) := by
  have e : symClk s.afskClk s.cfg.nAfsk = (0, true) := if_neg (by omega)
  unfold afskTickStep
  rw [if_pos h, e]

theorem afskTickStep_count {s : State} (h : s.afskIe = true) (hk : s.afskClk + 1 < s.cfg.nAfsk) :
    afskTickStep s = .next { ddsStep s with afskClk := s.afskClk + 1 } := by
  have e : symClk s.afskClk s.cfg.nAfsk = (s.afskClk + 1, false) := if_pos hk
  unfold afskTickStep
  rw [if_pos h, e]

/-! ### The line to come -/

/-- The unsent bits of the current byte. -/
def bitsOf (s : State) : List Bool := bitsLeft s.hdlcBit.toNat s.hdlcSr

/-- The content bits not yet fetched, before stuffing. -/
def contentBits (s : State) : List Bool := lsbBits (pendingBytes s s.afskMode s.afskPtr s.afskLen)

/-- The line bits a burst has still to send if nothing more is submitted: while the leading flags go out, during the content,
and during the trailing flags (43_hdlc.md R187). -/
inductive LineToCome (s : State) : List Bool → Prop where
  | leading (h1 : s.hdlcStuff = false) (h2 : s.hdlcOnes = 0#3) (h3 : s.afskLen ≠ 0)
      (h4 : s.cfg.restCount ≤ s.hdlcRest.toNat) :
      LineToCome s (bitsOf s ++ (flagRun (s.hdlcRest.toNat - s.cfg.restCount) ++
        (stuff (contentBits s) ++ flagRun (s.cfg.restCount + 1))))
  | content (h1 : s.hdlcStuff = true) (h2 : s.hdlcOnes.toNat ≤ 5)
      (h3 : s.afskLen ≠ 0 ∧ s.hdlcRest.toNat ≤ s.cfg.restCount ∨ s.afskLen = 0 ∧ s.hdlcRest.toNat = s.cfg.restCount + 2) :
      LineToCome s (stuffDue s.hdlcOnes.toNat (bitsOf s ++ contentBits s) ++ flagRun (s.cfg.restCount + 1))
  | closing (h1 : s.hdlcStuff = false) (h2 : s.hdlcOnes = 0#3) (h3 : s.afskLen = 0) (h4 : 1 ≤ s.hdlcRest.toNat) :
      LineToCome s (bitsOf s ++ flagRun (s.hdlcRest.toNat - 1))

theorem emitBit_bitsOf (s : State) : bitsOf (emitBit s) = bitsLeft s.hdlcBit.toNat (s.hdlcSr >>> (1 : Nat)) := by
  unfold emitBit bitsOf; split <;> simp_all

theorem emitBit_contentBits (s : State) : contentBits (emitBit s) = contentBits s := by
  unfold emitBit contentBits; split <;> rfl

theorem emitBit_ones_off {s : State} (h : s.hdlcStuff = false) (h0 : s.hdlcOnes = 0#3) : (emitBit s).hdlcOnes = 0#3 := by
  unfold emitBit; split <;> simp [h, h0]

theorem emitBit_ones_on {s : State} (h : s.hdlcStuff = true) (h0 : s.hdlcOnes.toNat < 5) :
    (emitBit s).hdlcOnes.toNat = if s.hdlcSr.getLsbD 0 then s.hdlcOnes.toNat + 1 else 0 := by
  unfold emitBit; split
  · bv_omega
  · rfl

/-- A content bit sent with no stuffed 0 due leaves the rest of the line. -/
theorem LineToCome.of_content_bit {s : State} (h1 : s.hdlcStuff = true) (h2 : s.hdlcOnes.toNat < 5)
    (h3 : s.afskLen ≠ 0 ∧ s.hdlcRest.toNat ≤ s.cfg.restCount ∨ s.afskLen = 0 ∧ s.hdlcRest.toNat = s.cfg.restCount + 2) :
    LineToCome (emitBit s)
      (stuffDue (if s.hdlcSr.getLsbD 0 then s.hdlcOnes.toNat + 1 else 0)
        (bitsLeft s.hdlcBit.toNat (s.hdlcSr >>> (1 : Nat)) ++ contentBits s) ++ flagRun (s.cfg.restCount + 1)) := by
  have := LineToCome.content (s := emitBit s) (by simpa using h1) (by rw [emitBit_ones_on h1 h2]; split <;> omega)
    (by simpa using h3)
  rw [emitBit_ones_on h1 h2, emitBit_bitsOf, emitBit_contentBits, emitBit_cfg] at this
  exact this

end Sys2Proof.Machine
end

