-- ==== Sys2Proof/Laws/PerInstr.lean ====
section
/-! SUPPORT. The per-operation facts of LAWS.json: `CommandShape`, the opcode byte and the length of every command
(30_encoding.md R90, R97), one lemma per constructor. -/

namespace Sys2Proof.Laws.CommandShape

/-- A command begins with its opcode byte, its length is the one its opcode alone determines in the configuration, and its
opcode byte is an assigned one. -/
def Statement (i : Instr) : Prop :=
  ∀ c : Config, (encode c i).head? = some (opcodeOf i) ∧
    commandBytes c (opcodeOf i) = some (encode c i).length

theorem reset : Statement (.reset) := by
  intro c
  exact ⟨rfl, rfl⟩

theorem tick : Statement (.tick) := by
  intro c
  exact ⟨rfl, rfl⟩

theorem hostSt (addr : Nat) (b : Byte) : Statement (.hostSt addr b) := by
  intro c
  refine ⟨rfl, ?_⟩
  simp [commandBytes, opcodeOf, encode, operandBytes]
  omega

theorem hostLd (mode : Space) (addr : Nat) : Statement (.hostLd mode addr) := by
  intro c
  cases mode <;> refine ⟨rfl, ?_⟩ <;> simp [commandBytes, opcodeOf, encode, operandBytes, writeMode] <;> omega

theorem status : Statement (.status) := by
  intro c
  exact ⟨rfl, rfl⟩

theorem rttySubmit (mode : Space) (addr len : Nat) : Statement (.rttySubmit mode addr len) := by
  intro c
  cases mode <;> refine ⟨rfl, ?_⟩ <;> simp [commandBytes, opcodeOf, encode, operandBytes, writeMode] <;> omega

theorem rttyEnable (on : Bool) : Statement (.rttyEnable on) := by
  intro c
  exact ⟨rfl, rfl⟩

theorem rttyWait : Statement (.rttyWait) := by
  intro c
  exact ⟨rfl, rfl⟩

theorem rttyIrq (on : Bool) : Statement (.rttyIrq on) := by
  intro c
  exact ⟨rfl, rfl⟩

theorem rttyTick : Statement (.rttyTick) := by
  intro c
  exact ⟨rfl, rfl⟩

theorem afskSubmit (mode : Space) (addr len : Nat) : Statement (.afskSubmit mode addr len) := by
  intro c
  cases mode <;> refine ⟨rfl, ?_⟩ <;> simp [commandBytes, opcodeOf, encode, operandBytes, writeMode] <;> omega

theorem afskWait : Statement (.afskWait) := by
  intro c
  exact ⟨rfl, rfl⟩

theorem afskIrq (on : Bool) : Statement (.afskIrq on) := by
  intro c
  exact ⟨rfl, rfl⟩

theorem afskTick : Statement (.afskTick) := by
  intro c
  exact ⟨rfl, rfl⟩

theorem crcInit : Statement (.crcInit) := by
  intro c
  exact ⟨rfl, rfl⟩

theorem crcByte (b : Byte) : Statement (.crcByte b) := by
  intro c
  exact ⟨rfl, rfl⟩

theorem crcFcs : Statement (.crcFcs) := by
  intro c
  exact ⟨rfl, rfl⟩

theorem fbBuild (args : BuildArgs) : Statement (.fbBuild args) := by
  intro c
  refine ⟨rfl, ?_⟩
  cases h : args.pmode <;>
    simp [commandBytes, opcodeOf, encode, operandBytes, writeMode, writeOn, writeCall, h] <;> omega

theorem fbLen : Statement (.fbLen) := by
  intro c
  exact ⟨rfl, rfl⟩

theorem b91Enc (value : Nat) (width : Byte) (dst : Nat) : Statement (.b91Enc value width dst) := by
  intro c
  refine ⟨rfl, ?_⟩
  simp [commandBytes, opcodeOf, encode, operandBytes]
  omega

end Sys2Proof.Laws.CommandShape
end

