-- ==== Sys2Proof/Machine/Assembly.lean ====
section
/-! DEFINITION. The assembler syntax of 30_encoding.md R99, as a printer: one line per operation, operands in field order,
numbers in decimal (log 20). The block never reads it. -/

namespace Sys2Proof.Machine

/-- The mnemonic of an operation (30_encoding.md R95). -/
def mnemonicOf : Instr → String
  | .reset => "RESET"
  | .tick => "TICK"
  | .hostSt _ _ => "HOST.ST"
  | .hostLd _ _ => "HOST.LD"
  | .status => "STATUS"
  | .rttySubmit _ _ _ => "RTTY.SUBMIT"
  | .rttyEnable _ => "RTTY.ENABLE"
  | .rttyWait => "RTTY.WAIT"
  | .rttyIrq _ => "RTTY.IRQ"
  | .rttyTick => "RTTY.TICK"
  | .afskSubmit _ _ _ => "AFSK.SUBMIT"
  | .afskWait => "AFSK.WAIT"
  | .afskIrq _ => "AFSK.IRQ"
  | .afskTick => "AFSK.TICK"
  | .crcInit => "CRC.INIT"
  | .crcByte _ => "CRC.BYTE"
  | .crcFcs => "CRC.FCS"
  | .fbBuild _ => "FB.BUILD"
  | .fbLen => "FB.LEN"
  | .b91Enc _ _ _ => "B91.ENC"

/-- `ram` or `rom`. -/
def asmMode : Space → String
  | .data => "ram"
  | .const => "rom"

/-- `1` or `0`. -/
def asmOn (on : Bool) : String := if on then "1" else "0"

/-- A byte as a number. -/
def asmByte (b : Byte) : String := toString b.toNat

/-- A `call` with its `ssid`: the quoted characters below its length, a minus sign and the number. -/
def asmCall (k : Call) (ssid : Byte) : String :=
  "\"" ++ String.ofList ((k.chars.take k.n.toNat).map fun b => Char.ofNat b.toNat) ++ "\"-" ++ asmByte ssid

/-- An optional path; `-` where it is absent. -/
def asmPath (p : Bool) (k : Call) (ttl : Byte) : String := if p then asmCall k ttl else "-"

/-- The operands of an operation, in field order. -/
def asmOperands : Instr → List String
  | .reset => []
  | .tick => []
  | .hostSt addr b => [toString addr, asmByte b]
  | .hostLd mode addr => [asmMode mode, toString addr]
  | .status => []
  | .rttySubmit mode addr len => [asmMode mode, toString addr, toString len]
  | .rttyEnable on => [asmOn on]
  | .rttyWait => []
  | .rttyIrq on => [asmOn on]
  | .rttyTick => []
  | .afskSubmit mode addr len => [asmMode mode, toString addr, toString len]
  | .afskWait => []
  | .afskIrq on => [asmOn on]
  | .afskTick => []
  | .crcInit => []
  | .crcByte b => [asmByte b]
  | .crcFcs => []
  | .fbBuild a =>
    [toString a.dst, asmCall a.dcall a.dssid, asmCall a.scall a.sssid, asmPath a.p1 a.p1call a.p1ttl,
      asmPath a.p2 a.p2call a.p2ttl, asmMode a.pmode ++ ":" ++ toString a.paddr, toString a.plen]
  | .fbLen => []
  | .b91Enc value width dst => [toString value, asmByte width, toString dst]

/-- One line of assembly (30_encoding.md R99). -/
def assembly (i : Instr) : String :=
  match asmOperands i with
  | [] => mnemonicOf i
  | ops => mnemonicOf i ++ " " ++ ", ".intercalate ops

end Sys2Proof.Machine
end

