-- ==== Sys2Proof/Tests/Slice0.lean ====
section
/-! SUPPORT. Tests of the model against the vectors of 95_test_vectors.md (their ids stand at each), the well-formedness
smoke test, and one witness per statement that has hypotheses. -/

namespace Sys2Proof.Tests

open Sys2Proof Sys2Proof.Machine

/-! ### Helpers -/

/-- A small state in `CFG_REF`: some bytes in both spaces, everything else as after power-on. -/
def base : State :=
  State.powerOn Config.ref [(0x10, 0x52#8), (0x40, 0x7E#8)]
    [(0x100, 0xFF#8), (0x300, 0x21#8), (0x301, 0x2F#8), (0x400, 0x41#8)]

/-- The RTTY transmitter enabled, one byte pending. -/
def rttyOn : State := { base with rttyPtr := 0x400, rttyLen := 1, rttyIe := true, rttyTxen := true }

/-- The AFSK transmitter just started on one byte (V-HD-1, tick 0). -/
def afskOn : State := { base with afskPtr := 0x100, afskLen := 1, afskIe := true, afskTxen := true }

/-- The last tick before an AFSK bit boundary. -/
def atEdge (s : State) : State := { s with afskClk := 7 }

/-- The last tick before an RTTY bit boundary. -/
def atRttyEdge (s : State) : State := { s with rttyClk := 191 }

/-- The next step is the host's, with these command bytes. -/
def given (s : State) (bs : List Byte) : State := { s with sched := [.host], hostIn := bs }

/-- The next state, or the state itself where there is none. -/
def nextOf (r : Res State) (s : State) : State :=
  match r with
  | .next t => t
  | .fault _ => s
  | .refused _ => s

/-- The result is a next state with the property. -/
def goesTo (r : Res State) (p : State → Bool) : Bool :=
  match r with
  | .next t => p t
  | .fault _ => false
  | .refused _ => false

/-- The result is this refusal. -/
def refuses (r : Res State) (e : Refusal) : Bool :=
  match r with
  | .next _ => false
  | .fault _ => false
  | .refused e' => decide (e' = e)

/-- The bytes decode to this, with nothing left. -/
def reads (bs : List Byte) (i : Instr) : Bool :=
  match decode Config.ref bs with
  | .ok (j, []) => decide (j = i)
  | .ok (_, _ :: _) => false
  | .error _ => false

/-- `"APRS"`. -/
def aprs : Call := ⟨4#8, 0x41#8, 0x50#8, 0x52#8, 0x53#8, 0x20#8, 0x20#8⟩
/-- `"N0CALL"`. -/
def n0call : Call := ⟨6#8, 0x4E#8, 0x30#8, 0x43#8, 0x41#8, 0x4C#8, 0x4C#8⟩
/-- An absent path's callsign. -/
def noCall : Call := ⟨0#8, 0x20#8, 0x20#8, 0x20#8, 0x20#8, 0x20#8, 0x20#8⟩
/-- `"WIDE2"`. -/
def wide2 : Call := ⟨5#8, 0x57#8, 0x49#8, 0x44#8, 0x45#8, 0x32#8, 0x20#8⟩
/-- A callsign whose length byte is 7. -/
def tooLong : Call := { noCall with n := 7#8 }

/-- The FB.BUILD of 30_encoding.md R99. -/
def build : BuildArgs := ⟨0x0100, aprs, 0#8, n0call, 1#8, false, noCall, 0#8, false, noCall, 0#8, .data, 0x0300, 6⟩

/-- V-FB-3: path 2 alone, empty payload. -/
def buildPath2 : BuildArgs := { build with p2 := true, p2call := wide2, p2ttl := 2#8, plen := 0 }

/-! ### Well-formedness: an ill-formed term for each check, refused -/

theorem smoke_hostSt_addr : (Instr.hostSt 0x10000 0#8).wf Config.ref = false := by decide
theorem smoke_hostLd_addr : (Instr.hostLd .data 0x10000).wf Config.ref = false := by decide
theorem smoke_rttySubmit_addr : (Instr.rttySubmit .data 0x10000 0).wf Config.ref = false := by decide
theorem smoke_rttySubmit_len : (Instr.rttySubmit .data 0 0x10000).wf Config.ref = false := by decide
theorem smoke_afskSubmit_addr : (Instr.afskSubmit .const 0x10000 0).wf Config.ref = false := by decide
theorem smoke_afskSubmit_len : (Instr.afskSubmit .const 0 0x10000).wf Config.ref = false := by decide
theorem smoke_fbBuild_dst : (Instr.fbBuild { build with dst := 0x10000 }).wf Config.ref = false := by decide
theorem smoke_fbBuild_dcall : (Instr.fbBuild { build with dcall := tooLong }).wf Config.ref = false := by decide
theorem smoke_fbBuild_scall : (Instr.fbBuild { build with scall := tooLong }).wf Config.ref = false := by decide
theorem smoke_fbBuild_p1call : (Instr.fbBuild { build with p1call := tooLong }).wf Config.ref = false := by decide
theorem smoke_fbBuild_p2call : (Instr.fbBuild { build with p2call := tooLong }).wf Config.ref = false := by decide
theorem smoke_fbBuild_paddr : (Instr.fbBuild { build with paddr := 0x10000 }).wf Config.ref = false := by decide
theorem smoke_fbBuild_plen : (Instr.fbBuild { build with plen := 0x10000 }).wf Config.ref = false := by decide
theorem smoke_b91Enc_value : (Instr.b91Enc 0x100000000 4#8 0).wf Config.ref = false := by decide
theorem smoke_b91Enc_dst : (Instr.b91Enc 0 4#8 0x10000).wf Config.ref = false := by decide
theorem smoke_accepts : (Instr.fbBuild build).wf Config.ref = true ∧ (Instr.b91Enc 0xFFFFFFFF 255#8 0xFFFF).wf Config.ref = true := by
  decide

/-! ### Decoding: a word per constructor, from the encodings of 30_encoding.md R93, R95, R99 -/

theorem test_decode_reset : reads [0x01#8] .reset = true := by decide
theorem test_decode_tick : reads [0x02#8] .tick = true := by decide
theorem test_decode_hostSt : reads [0x03#8, 0x03#8, 0x00#8, 0x21#8] (.hostSt 0x0300 0x21#8) = true := by decide
theorem test_decode_hostLd : reads [0x04#8, 0x00#8, 0x03#8, 0x00#8] (.hostLd .data 0x0300) = true := by decide
theorem test_decode_status : reads [0x05#8] .status = true := by decide
theorem test_decode_rttySubmit :
    reads [0x10#8, 0x00#8, 0x04#8, 0x00#8, 0x00#8, 0x01#8] (.rttySubmit .data 0x0400 1) = true := by decide
theorem test_decode_rttyEnable : reads [0x11#8, 0x01#8] (.rttyEnable true) = true := by decide
theorem test_decode_rttyWait : reads [0x12#8] .rttyWait = true := by decide
theorem test_decode_rttyIrq : reads [0x13#8, 0x01#8] (.rttyIrq true) = true := by decide
theorem test_decode_rttyTick : reads [0x14#8] .rttyTick = true := by decide
theorem test_decode_afskSubmit :
    reads [0x20#8, 0x00#8, 0x01#8, 0x00#8, 0x00#8, 0x18#8] (.afskSubmit .data 0x0100 24) = true := by decide
theorem test_decode_afskSubmit_rom :
    reads [0x20#8, 0x01#8, 0x00#8, 0x40#8, 0x00#8, 0x03#8] (.afskSubmit .const 0x0040 3) = true := by decide
theorem test_decode_afskWait : reads [0x22#8] .afskWait = true := by decide
theorem test_decode_afskIrq : reads [0x23#8, 0x00#8] (.afskIrq false) = true := by decide
theorem test_decode_afskTick : reads [0x24#8] .afskTick = true := by decide
theorem test_decode_crcInit : reads [0x30#8] .crcInit = true := by decide
theorem test_decode_crcByte : reads [0x31#8, 0x41#8] (.crcByte 0x41#8) = true := by decide
theorem test_decode_crcFcs : reads [0x32#8] .crcFcs = true := by decide
theorem test_decode_fbBuild :
    reads [0x38#8, 0x01#8, 0x00#8, 0x04#8, 0x41#8, 0x50#8, 0x52#8, 0x53#8, 0x20#8, 0x20#8, 0x00#8, 0x06#8, 0x4E#8, 0x30#8,
      0x43#8, 0x41#8, 0x4C#8, 0x4C#8, 0x01#8, 0x00#8, 0x00#8, 0x20#8, 0x20#8, 0x20#8, 0x20#8, 0x20#8, 0x20#8, 0x00#8,
      0x00#8, 0x00#8, 0x20#8, 0x20#8, 0x20#8, 0x20#8, 0x20#8, 0x20#8, 0x00#8, 0x00#8, 0x03#8, 0x00#8, 0x00#8, 0x06#8]
      (.fbBuild build) = true := by decide
theorem test_decode_fbLen : reads [0x39#8] .fbLen = true := by decide
theorem test_decode_b91Enc :
    reads [0x40#8, 0x00#8, 0xBC#8, 0x61#8, 0x4E#8, 0x04#8, 0x02#8, 0x00#8] (.b91Enc 12345678 4#8 0x0200) = true := by decide

/-- A table word is read with its first byte in bits 7..0 (R116), operand bytes above it. -/
theorem test_tableWord : decodeTableWord 32 0x21000303 = some (.hostSt 0x0300 0x21#8) := by decide

theorem test_assembly : assembly (.b91Enc 12345678 4#8 512) = "B91.ENC 12345678, 4, 512" := by decide

/-! ### Outcomes of the command decoder (V-EX) -/

theorem test_illegal_hole : refuses (step (given base [0x21#8, 0x01#8])) (.illegalOpcode 0x21#8) = true := by decide
theorem test_illegal_tick : refuses (step (given base [0x02#8])) (.illegalOpcode 0x02#8) = true := by decide
theorem test_bad_on : refuses (step (given base [0x11#8, 0x02#8])) (.badOperand 0x11#8 .on) = true := by decide
theorem test_cut_stream : refuses (step (given base [0x10#8, 0x00#8, 0x04#8])) (.badOperand 0x10#8 .addr) = true := by
  decide

/-! ### One step per instruction -/

/-- V-SY-8: RESET in the middle of a burst. -/
theorem test_reset : goesTo (exec .reset { afskOn with hdlcRest := 3#8, ddsPhase := 54616 }) (fun t =>
    t.hdlcRest == 11#8 && t.ddsPhase == 0 && t.afskLen == 0 && !t.afskIe && t.dataMem == base.dataMem) = true := by
  decide

/-- P1: the fetch on tick 192; one tick before, only the clock moves. -/
theorem test_tick_fetch : goesTo (exec .tick (atRttyEdge rttyOn)) (fun t =>
    t.rttySr == 0x41#8 && t.rttyPtr == 0x401 && t.rttyLen == 0 && !t.rttyLine && t.rttyBit == 1#4) = true := by decide
theorem test_tick_count : goesTo (exec .tick rttyOn) (fun t => t.rttyClk == 1 && t.rttyLen == 1) = true := by decide

/-- V-SY-9, V-SY-11. -/
theorem test_hostSt_owned : refuses (exec (.hostSt 0x0101 0#8) { afskOn with afskLen := 2 }) (.ownedBufferWrite 0x0101) = true := by
  decide
theorem test_hostSt : goesTo (exec (.hostSt 0x0102 7#8) { afskOn with afskLen := 2 }) (fun t =>
    Mem.read t.dataMem 0x0102 == 7#8 && Mem.read t.dataMem 0x0100 == 0xFF#8) = true := by decide

/-- V-SY-6, V-SY-7. -/
theorem test_hostLd_ram : goesTo (exec (.hostLd .data 0x0300) base) (fun t => t.hostOut == [0x21#8]) = true := by decide
theorem test_hostLd_rom : goesTo (exec (.hostLd .const 0x0010) base) (fun t => t.hostOut == [0x52#8]) = true := by
  decide

/-- V-SY-2, V-SY-3. -/
theorem test_status_rtty : goesTo (exec .status rttyOn) (fun t => t.hostOut == [0x15#8]) = true := by decide
theorem test_status_afsk : goesTo (exec .status afskOn) (fun t => t.hostOut == [0x2A#8]) = true := by decide

/-- V-RT-13, V-RT-14. -/
theorem test_rttySubmit_empty : goesTo (exec (.rttySubmit .data 0x0400 0) base) (fun t =>
    t.rttyPtr == 0x0400 && t.rttyLen == 0 && !t.hostHeld) = true := by decide
theorem test_rttySubmit_holds : goesTo (exec (.rttySubmit .const 0x0010 2) rttyOn) (fun t =>
    t.hostHeld && t.rttyPtr == 0x400 && t.rttyLen == 1) = true := by decide

/-- V-RT-16. -/
theorem test_rttyEnable : goesTo (exec (.rttyEnable false) rttyOn) (fun t => !t.rttyTxen && t.rttyIe && t.rttyLen == 1) = true := by
  decide

theorem test_rttyWait : goesTo (exec .rttyWait base) (fun t => t == base) = true := by decide
theorem test_rttyWait_holds : goesTo (exec .rttyWait rttyOn) (fun t => t.hostHeld) = true := by decide

/-- V-SC-8. -/
theorem test_rttyIrq : goesTo (exec (.rttyIrq false) { rttyOn with rttyClk := 100 }) (fun t =>
    !t.rttyIe && t.rttyClk == 100) = true := by decide

/-- V-RT-9, V-RT-10. -/
theorem test_rttyTick_data : goesTo (exec .rttyTick { atRttyEdge rttyOn with rttyBit := 3#4, rttySr := 0x10#8 }) (fun t =>
    !t.rttyLine && t.rttySr == 0x08#8 && t.rttyBit == 4#4 && t.rttyClk == 0) = true := by decide
theorem test_rttyTick_stop : goesTo (exec .rttyTick { atRttyEdge rttyOn with rttyBit := 9#4, rttyLine := false }) (fun t =>
    t.rttyLine && t.rttyBit == 0#4 && t.rttyLen == 1) = true := by decide

/-- V-EX-7, V-EX-8. -/
theorem test_afskSubmit_range : refuses (exec (.afskSubmit .data 0xFFFF 2) afskOn) (.badOperand 0x20#8 .addr) = true := by
  decide
theorem test_afskSubmit_top : goesTo (exec (.afskSubmit .data 0xFFFF 1) base) (fun t =>
    t.afskPtr == 0xFFFF && t.afskLen == 1 && t.afskTxen && t.afskIe) = true := by decide

theorem test_afskWait_holds : goesTo (exec .afskWait afskOn) (fun t => t.hostHeld && t.afskLen == 1) = true := by
  decide

/-- V-HD-19. -/
theorem test_afskIrq : goesTo (exec (.afskIrq false) afskOn) (fun t => !t.afskIe && t.afskTxen && t.afskLen == 1) = true := by
  decide

/-- V-HD-12 tick 648: the content byte, with V-DD-3's phase step. -/
theorem test_afskTick_content :
    goesTo (exec .afskTick { atEdge afskOn with hdlcRest := 1#8, ddsPhase := 57344 }) (fun t =>
      t.hdlcSr == 0x7F#8 && t.hdlcOnes == 1#3 && t.hdlcStuff && t.hdlcRest == 3#8 && t.afskLen == 0 &&
      t.afskPtr == 0x0101 && t.ddsPhase == 0 && !t.ddsTone && t.hdlcBit == 0#3) = true := by decide

/-- V-HD-21: the stuffed 0 at the end of the content, with V-DD-2's phase step. -/
theorem test_afskTick_stuffed :
    goesTo (exec .afskTick { atEdge afskOn with
        afskLen := 0, hdlcOnes := 5#3, hdlcStuff := true, hdlcRest := 3#8, ddsTone := true, ddsPhase := 60076 }) (fun t =>
      !t.ddsTone && t.hdlcOnes == 0#3 && t.hdlcBit == 7#3 && t.hdlcRest == 3#8 && t.ddsPhase == 9559) = true := by
  decide

theorem test_crcInit : goesTo (exec .crcInit { base with crc := 1#16 }) (fun t => t.crc == 0xFFFF#16) = true := by
  decide

/-- V-CR-3, V-CR-4. -/
theorem test_crcByte : goesTo (exec (.crcByte 0x41#8) base) (fun t => t.crc == 0x5C0A#16) = true := by decide
theorem test_crcByte_ff : goesTo (exec (.crcByte 0xFF#8) base) (fun t => t.crc == 0x00FF#16) = true := by decide

/-- V-CR-6. -/
theorem test_crcFcs : goesTo (exec .crcFcs { base with crc := 0xCE10#16 }) (fun t => t.hostOut == [0xEF#8, 0x31#8]) = true := by
  decide

/-- V-FB-3: the frame, its length and its CRC. -/
theorem test_fbBuild : goesTo (exec (.fbBuild buildPath2) base) (fun t =>
    pendingBytes t .data 0x100 25 ==
      [0x82#8, 0xA0#8, 0xA4#8, 0xA6#8, 0x40#8, 0x40#8, 0x60#8, 0x9C#8, 0x60#8, 0x86#8, 0x82#8, 0x98#8, 0x98#8, 0x62#8,
       0xAE#8, 0x92#8, 0x88#8, 0x8A#8, 0x64#8, 0x40#8, 0x65#8, 0x03#8, 0xF0#8, 0x71#8, 0xD4#8] &&
    t.fbLen == 25 && !t.fbTrunc && t.crc == 0x2B8E#16) = true := by decide +kernel

/-- V-FB-20. -/
theorem test_fbBuild_owned : refuses (exec (.fbBuild build) afskOn) (.ownedBufferWrite 0x0100) = true := by decide

/-- V-FB-23. -/
theorem test_fbLen : goesTo (exec .fbLen { base with fbLen := 100 }) (fun t => t.hostOut == [0x00#8, 0x64#8]) = true := by
  decide

/-- V-B9-10, V-B9-20. -/
theorem test_b91Enc : goesTo (exec (.b91Enc 12345678 4#8 0x0200) base) (fun t =>
    pendingBytes t .data 0x0200 4 == [0x31#8, 0x43#8, 0x6D#8, 0x69#8]) = true := by decide
theorem test_b91Enc_owned : refuses (exec (.b91Enc 12345678 4#8 0x0100) { rttyOn with rttyPtr := 0x0102, rttyLen := 2 })
    (.ownedBufferWrite 0x0102) = true := by decide

/-- V-HD-4: a content byte equal to the flag is stuffed. -/
theorem test_stuff : stuff (byteBits 0x7E#8) = [false, true, true, true, true, true, false, true, false] := by decide

/-- The host's held command stays, and the tick agent takes the step. -/
theorem test_hold_step : goesTo (step (given rttyOn [0x12#8])) (fun t =>
    t.hostIn == [0x12#8] && t.hostHeld && t.rttyClk == 1) = true := by decide

/-- A placed half of a tick is the whole of the very next TICK. -/
theorem test_withFetchWord_half : goesTo (step ({ rttyOn with afskIe := true }.withFetchWord 8 0x14)) (fun t =>
    t.rttyClk == 1 && t.afskClk == 0 && t.ddsPhase == 0) = true := by decide

/-- A placed table word runs in the very next step. -/
theorem test_withFetchWord : goesTo (step (State.reset.withFetchWord 16 0x4131)) (fun t => t.crc == 0x5C0A#16) = true := by
  decide

/-! ### Witnesses: for each statement with hypotheses, states and operands that meet them, clause by clause -/

theorem ref_wf : Config.ref.WF := by decide

theorem base_inv : base.Inv := by constructor <;> decide
theorem rttyOn_inv : rttyOn.Inv := by constructor <;> decide
theorem afskOn_inv : afskOn.Inv := by constructor <;> decide

/-- The AFSK transmitter masked while busy (program P5). -/
def afskMasked : State := { afskOn with afskIe := false, hostIn := [0x22#8] }
theorem afskMasked_inv : afskMasked.Inv := by constructor <;> decide

/-- The AFSK transmitter enabled with nothing pending (43_hdlc.md R185). -/
def afskRest : State := { afskOn with afskLen := 0 }
theorem afskRest_inv : afskRest.Inv := by constructor <;> decide

theorem witness_PowerOnSatisfiesInvariant :
    Config.ref.WF ∧ Mem.wf base.constMem = true ∧ Mem.inSpace Config.ref.spaceSize base.constMem = true ∧
    Mem.wf base.dataMem = true ∧ Mem.inSpace Config.ref.spaceSize base.dataMem = true ∧
    base = State.powerOn Config.ref base.constMem base.dataMem := by
  refine ⟨ref_wf, ?_, ?_, ?_, ?_, rfl⟩ <;> decide

theorem given_inv : (given base [0x31#8, 0x41#8]).Inv := by constructor <;> decide

theorem witness_StepKeepsInvariant :
    (given base [0x31#8, 0x41#8]).Inv ∧
    step (given base [0x31#8, 0x41#8]) = .next { base with crc := 0x5C0A#16 } := ⟨given_inv, rfl⟩

theorem witness_InvariantRulesOutFaults : (given base [0x31#8, 0x41#8]).Inv := given_inv

theorem witness_MaskedMeansIdleUnlessHostMasks :
    Instr.afskIrq true ≠ .afskIrq false ∧ (base.afskIe = false → base.AfskIdle) ∧
    exec (.afskIrq true) base = .next { base with afskIe := true } := ⟨by decide, by decide, rfl⟩

theorem witness_EncodedCommandsDecodeBack :
    (Instr.fbBuild build).WF Config.ref ∧ (Instr.hostSt 0xFFFF 0xFF#8).WF Config.ref := by decide

theorem witness_DecodedBytesAreTheEncoding :
    decode Config.ref [0x31#8, 0x41#8, 0x05#8] = .ok (.crcByte 0x41#8, [0x05#8]) := rfl

theorem witness_IllegalOpcodeIsRefused :
    nextTurn (given base [0x00#8]) = (.host, { base with hostIn := [0x00#8] }) ∧
    nextTurn (given base [0x24#8]) = (.host, { base with hostIn := [0x24#8] }) ∧
    (0x00#8 : Byte).toNat ∉ [0x01, 0x02, 0x03, 0x04, 0x05, 0x10, 0x11, 0x12, 0x13, 0x14, 0x20, 0x22, 0x23, 0x24, 0x30, 0x31,
      0x32, 0x38, 0x39, 0x40] ∧
    (0xFF#8 : Byte).toNat ∉ [0x01, 0x02, 0x03, 0x04, 0x05, 0x10, 0x11, 0x12, 0x13, 0x14, 0x20, 0x22, 0x23, 0x24, 0x30, 0x31,
      0x32, 0x38, 0x39, 0x40] ∧
    (0x24#8 : Byte).toNat ∈ [0x02, 0x14, 0x24] := ⟨rfl, rfl, by decide, by decide, by decide⟩

/-- V-EX-9's cut stream; a command cut before its last byte; and a malformed field of each kind, the first and the last of a
format among them. -/
theorem witness_MalformedFieldsAreRefused :
    (nextTurn (given base []) = (.host, base) ∧
      nextTurn (given base [0x21#8]) = (.host, { base with hostIn := [0x21#8] }) ∧
      decodeHost base.cfg [0x21#8] = .error (.illegalOpcode 0x21#8) ∧
      nextTurn (given base [0x10#8, 0x00#8, 0x04#8]) = (.host, { base with hostIn := [0x10#8, 0x00#8, 0x04#8] }) ∧
      decodeHost base.cfg [0x10#8, 0x00#8, 0x04#8] = .error (.badOperand 0x10#8 .addr)) ∧
    ((Instr.rttySubmit .data 0x0400 1).WF Config.ref ∧ (Instr.rttySubmit .data 0x0400 1).agent = .host ∧
      (encode Config.ref (.rttySubmit .data 0x0400 1)).take 3 = [0x10#8, 0x00#8, 0x04#8] ∧
      fieldAt Config.ref (fieldsOf (.rttySubmit .data 0x0400 1)) 2 = some .addr ∧
      5 < (encode Config.ref (.rttySubmit .data 0x0400 1)).length) ∧
    ((Instr.fbBuild build).WF Config.ref ∧ fieldOffset Config.ref (fieldsOf (.fbBuild build)) .dcall = 2 ∧
      [0x07#8, 0#8, 0#8, 0#8, 0#8, 0#8, 0#8].length = fieldBytes (fieldWidth Config.ref .dcall) ∧
      FieldMalformed Config.ref .dcall [0x07#8, 0#8, 0#8, 0#8, 0#8, 0#8, 0#8] ∧
      FieldMalformed Config.ref .p2 [0x02#8] ∧ FieldMalformed Config.ref .pmode [0xFF#8] ∧
      FieldMalformed { Config.ref with lenBits := 12 } .plen [0x10#8, 0x00#8]) := by
  refine ⟨⟨rfl, rfl, rfl, rfl, rfl⟩, by decide, by decide, by decide, by decide, ?_, ?_, ?_, ?_⟩
  · show 6 < _; decide
  · show 2 ^ 1 ≤ _; decide
  · show 2 ^ 1 ≤ _; decide
  · show 2 ^ 12 ≤ _; decide

theorem witness_StepRunsDecodedCommand :
    (nextTurn (given base [0x31#8, 0x41#8]) = (.host, { given base [0x31#8, 0x41#8] with sched := [] }) ∧
      decodeHost Config.ref [0x31#8, 0x41#8] = .ok (.crcByte 0x41#8, []) ∧
      exec (.crcByte 0x41#8) base = .next { base with crc := 0x5C0A#16 }) ∧
    (nextTurn (given rttyOn [0x12#8]) = (.host, { given rttyOn [0x12#8] with sched := [] }) ∧
      decodeHost Config.ref [0x12#8] = .ok (.rttyWait, []) ∧
      exec .rttyWait rttyOn = .next { rttyOn with hostHeld := true }) ∧
    (decodeHost Config.ref [0x03#8, 0x01#8, 0x00#8, 0x00#8] = .ok (.hostSt 0x0100 0#8, []) ∧
      exec (.hostSt 0x0100 0#8) afskOn = .refused (.ownedBufferWrite 0x0100)) := ⟨⟨rfl, rfl, rfl⟩, ⟨rfl, rfl, rfl⟩, rfl, rfl⟩

/-- A host command faults only under an ill-formed configuration: here the frame is longer than its buffer. -/
def tinyCap : State := { base with cfg := { Config.ref with frameCap := 0 } }
theorem witness_StepRunsDecodedCommand_fault :
    (Instr.fbBuild { build with dst := 0xFFF0 }).WF tinyCap.cfg ∧
    exec (.fbBuild { build with dst := 0xFFF0 }) tinyCap = .fault (.memRange .data 0x10000) := by
  exact ⟨by decide, rfl⟩

theorem witness_StepRunsTickEvent :
    nextTurn { rttyOn with sched := [.tick] } = (.tick, rttyOn) ∧ rttyOn.afskIe = false ∧
    nextTurn { afskOn with sched := [.tick] } = (.tick, afskOn) ∧ afskOn.rttyIe = false := ⟨rfl, rfl, rfl, rfl⟩

theorem witness_EveryStepIsOneOperation :
    step (given base [0x31#8, 0x41#8]) = .next { base with crc := 0x5C0A#16 } ∧
    step rttyOn = .next { rttyOn with rttyClk := 1 } := ⟨rfl, rfl⟩

theorem witness_TurnsAreTakenInOrder :
    (given base [0x05#8]).sched = .host :: [] ∧ (base.sched = [] ∧ base.hostIn = []) ∧
    ((given base []).sched = .host :: [] ∧ (given base []).hostIn = []) ∧
    (afskMasked.sched = [] ∧ afskMasked.hostIn ≠ []) := by decide

theorem witness_HostStoreWritesOneByte :
    Mem.wf afskOn.dataMem = true ∧ 0x0100 < afskOn.cfg.spaceSize ∧ owned afskOn 0x0100 = true ∧
    0xFFFF < afskOn.cfg.spaceSize ∧ owned afskOn 0xFFFF = false ∧ owned afskOn 0x0101 = false := by decide

theorem witness_HostLoadReturnsByte : 0xFFFF < base.cfg.spaceSize := by decide

theorem witness_LoadAfterStoreReturnsIt :
    Mem.wf afskOn.dataMem = true ∧ 0x0101 < afskOn.cfg.spaceSize ∧ 0xFFFF < afskOn.cfg.spaceSize ∧
    owned afskOn 0x0101 = false ∧ 0xFFFF ≠ 0x0101 := by decide

theorem witness_AccessOutsideTheSpaceFaults : 2 ^ base.cfg.addrBits ≤ 0x10000 ∧ owned base 0x10000 = false := by decide

theorem witness_SymClkBoundariesEveryN :
    6 + 1 < 8 ∧ ¬ 7 + 1 < 8 ∧ 1 ≤ 8 ∧ 1 ≤ 16 ∧ rttyOn.rttyIe = true ∧
    exec .rttyTick rttyOn = .next { rttyOn with rttyClk := 1 } ∧ afskOn.afskIe = true ∧
    exec .afskTick afskOn = .next { ddsStep afskOn with afskClk := 1 } :=
  ⟨by decide, by decide, by decide, by decide, rfl, rfl, rfl, rfl⟩

theorem witness_TicksComplete : afskOn.Inv ∧ rttyOn.Inv := ⟨afskOn_inv, rttyOn_inv⟩

theorem witness_TickRunsBothHalvesInAnyOrder :
    exec .tick rttyOn = .next { rttyOn with rttyClk := 1 } ∧ base.rttyIe = false ∧ base.afskIe = false :=
  ⟨rfl, rfl, rfl⟩

theorem witness_TickHalvesShareNothing :
    exec .rttyTick rttyOn = .next { rttyOn with rttyClk := 1 } ∧
    exec .afskTick afskOn = .next { ddsStep afskOn with afskClk := 1 } := ⟨rfl, rfl⟩

/-- The RTTY transmitter of `rttyOn` beside a running AFSK transmitter. -/
def bothOn : State := { rttyOn with afskPtr := 0x100, afskLen := 1, afskIe := true, afskTxen := true }
theorem witness_TransmittersDoNotInterfere :
    sameMemory rttyOn bothOn ∧ exec .tick rttyOn = .next { rttyOn with rttyClk := 1 } ∧
    exec .tick bothOn = .next { ddsStep { bothOn with rttyClk := 1 } with afskClk := 1 } ∧ sameRtty rttyOn bothOn ∧
    sameMemory afskOn bothOn ∧ sameAfsk afskOn bothOn := ⟨by decide, rfl, rfl, by decide, by decide, by decide⟩

theorem witness_RttySubmitHandsOver :
    ¬ 0xFFFF + 2 ≤ 2 ^ rttyOn.cfg.addrBits ∧ (0xFFFF + 1 ≤ 2 ^ rttyOn.cfg.addrBits ∧ rttyOn.rttyLen ≠ 0) ∧
    (0xFFFF + 1 ≤ 2 ^ base.cfg.addrBits ∧ base.rttyLen = 0) := by decide

theorem witness_WaitsCompleteExactlyWhenIdle :
    base.rttyLen = 0 ∧ rttyOn.rttyLen ≠ 0 ∧ base.afskLen = 0 ∧ afskOn.afskLen ≠ 0 := by decide

theorem witness_RttyTickFraming :
    base.rttyIe = false ∧ (rttyOn.rttyIe = true ∧ 190 + 1 < rttyOn.cfg.nRtty) ∧
    ((atRttyEdge rttyOn).rttyIe = true ∧ rttyOn.cfg.nRtty ≤ (atRttyEdge rttyOn).rttyClk + 1) ∧
    ((atRttyEdge rttyOn).rttyBit = 0#4 ∧ (atRttyEdge rttyOn).rttyLen ≠ 0 ∧
      (atRttyEdge rttyOn).rttyPtr < 2 ^ rttyOn.cfg.addrBits) ∧
    ((0#4 : BitVec 4) = 0#4 ∧ ({ atRttyEdge rttyOn with rttyLen := 0 } : State).rttyLen = 0) ∧
    (1 ≤ (1#4 : BitVec 4).toNat ∧ (8#4 : BitVec 4).toNat ≤ 8) ∧
    ({ atRttyEdge rttyOn with rttyBit := 9#4 } : State).rttyBit = 9#4 := by decide

theorem witness_RttyBitLastsNTicks :
    (rttyOn.rttyIe = true ∧ rttyOn.rttyClk + 191 < rttyOn.cfg.nRtty) ∧
    (rttyOn.rttyClk < rttyOn.cfg.nRtty ∧ 192 = rttyOn.cfg.nRtty - rttyOn.rttyClk) ∧ base.rttyIe = false := by decide

theorem witness_RttyLineSendsTheBuffer :
    rttyOn.Inv ∧ rttyOn.rttyIe = true ∧ rttyOn.rttyBit = 0#4 ∧ 191 < rttyOn.cfg.nRtty :=
  ⟨rttyOn_inv, by decide, by decide, by decide⟩

theorem witness_AfskSubmitHandsOver :
    ¬ 0xFFFF + 2 ≤ 2 ^ afskOn.cfg.addrBits ∧ (0xFFFF + 1 ≤ 2 ^ afskOn.cfg.addrBits ∧ afskOn.afskLen ≠ 0) ∧
    (0xFFFF + 1 ≤ 2 ^ base.cfg.addrBits ∧ base.afskLen = 0) := by decide

theorem witness_AfskTickBetweenBoundaries :
    base.afskIe = false ∧ afskOn.afskIe = true ∧ ({ afskOn with afskClk := 6 } : State).afskClk + 1 < afskOn.cfg.nAfsk := by
  decide

theorem witness_DdsClosedForm :
    afskOn.ddsPhase < 2 ^ afskOn.cfg.phaseBits ∧ afskOn.afskIe = true ∧ afskOn.afskClk + 7 < afskOn.cfg.nAfsk := by decide

theorem witness_PhaseIsContinuous :
    Instr.afskTick ≠ .reset ∧ exec .afskTick afskOn = .next { ddsStep afskOn with afskClk := 1 } := ⟨by decide, rfl⟩

theorem witness_StuffedZeroTakesABitPeriod :
    (atEdge afskOn).afskIe = true ∧ afskOn.cfg.nAfsk ≤ (atEdge afskOn).afskClk + 1 ∧
    ({ atEdge afskOn with hdlcOnes := 5#3 } : State).hdlcOnes = 5#3 := by decide

theorem witness_ByteBoundaryShutsDown :
    (atEdge afskRest).afskIe = true ∧ afskRest.cfg.nAfsk ≤ (atEdge afskRest).afskClk + 1 ∧ afskRest.hdlcOnes ≠ 5#3 ∧
    afskRest.hdlcBit = 7#3 ∧ ({ atEdge afskRest with hdlcRest := 1#8 } : State).hdlcRest = 1#8 ∧ afskRest.afskLen = 0 := by
  decide

theorem witness_ByteBoundaryLoadsFlag :
    ((atEdge afskOn).afskIe = true ∧ afskOn.cfg.nAfsk ≤ (atEdge afskOn).afskClk + 1 ∧ afskOn.hdlcOnes ≠ 5#3 ∧
      afskOn.hdlcBit = 7#3) ∧
    (2 ≤ ({ atEdge afskOn with hdlcRest := 2#8 } : State).hdlcRest.toNat ∧ afskOn.cfg.restCount < (2#8 : Byte).toNat) ∧
    (2 ≤ afskRest.hdlcRest.toNat ∧ afskRest.afskLen = 0) := by decide

theorem witness_ByteBoundaryFetchesContent :
    (atEdge afskOn).afskIe = true ∧ afskOn.cfg.nAfsk ≤ (atEdge afskOn).afskClk + 1 ∧ afskOn.hdlcOnes ≠ 5#3 ∧
    afskOn.hdlcBit = 7#3 ∧ ({ atEdge afskOn with hdlcRest := 1#8 } : State).hdlcRest.toNat ≤ afskOn.cfg.restCount ∧
    afskOn.afskLen ≠ 0 ∧ afskOn.afskPtr < 2 ^ afskOn.cfg.addrBits ∧ 0xFF#8 = Mem.read afskOn.dataMem afskOn.afskPtr := by
  decide

theorem witness_MidByteBitIsSent :
    (atEdge afskOn).afskIe = true ∧ afskOn.cfg.nAfsk ≤ (atEdge afskOn).afskClk + 1 ∧
    ({ atEdge afskOn with hdlcBit := 0#3, hdlcStuff := true, hdlcOnes := 4#3 } : State).hdlcOnes ≠ 5#3 ∧
    ({ atEdge afskOn with hdlcBit := 0#3 } : State).hdlcBit ≠ 7#3 ∧
    ({ atEdge afskOn with hdlcBit := 6#3 } : State).hdlcBit ≠ 7#3 := by decide

theorem witness_StuffingIsReversibleAndFlagFree :
    stuff (List.replicate 5 true) = [] ++ List.replicate 5 true ++ [false] := by decide

theorem witness_HdlcLineSendsTheFrame :
    afskOn.Inv ∧ afskOn.afskIe = true ∧ afskOn.AfskIdle ∧ afskOn.afskLen ≠ 0 ∧ 7 < afskOn.cfg.nAfsk ∧
    104 < (lineBits afskOn.cfg (pendingBytes afskOn afskOn.afskMode afskOn.afskPtr afskOn.afskLen)).length :=
  ⟨afskOn_inv, by decide, by decide, by decide, by decide, by decide⟩

theorem witness_RestStateSendsFlagsOnly :
    afskRest.Inv ∧ afskRest.afskIe = true ∧ afskRest.AfskIdle ∧ afskRest.afskLen = 0 ∧
    79 < (flagRun (10 + afskRest.cfg.restCount - 1)).length :=
  ⟨afskRest_inv, by decide, by decide, by decide, by decide⟩

/-- The RTTY transmitter masked while busy, the host about to submit again. -/
def rttyMasked : State := { rttyOn with rttyIe := false, hostIn := encode Config.ref (.rttySubmit .const 0xFFFE 2) }
theorem rttyMasked_inv : rttyMasked.Inv := by constructor <;> decide

theorem witness_MaskedBusyTransmitterHangsTheHost :
    (afskMasked.Inv ∧ decodeHost afskMasked.cfg afskMasked.hostIn = .ok (.afskWait, []) ∧
      afskMasked.afskLen ≠ 0 ∧ afskMasked.afskIe = false) ∧
    (rttyMasked.Inv ∧ decodeHost rttyMasked.cfg rttyMasked.hostIn = .ok (.rttySubmit .const 0xFFFE 2, []) ∧
      0xFFFE + 2 ≤ 2 ^ rttyMasked.cfg.addrBits ∧ rttyMasked.rttyLen ≠ 0 ∧ rttyMasked.rttyIe = false) :=
  ⟨⟨afskMasked_inv, rfl, by decide, rfl⟩, rttyMasked_inv, rfl, by decide, by decide, rfl⟩

theorem witness_AddressFieldLayout : aprs.WF ∧ 3 < aprs.n.toNat ∧ aprs.n.toNat ≤ 4 ∧ n0call.WF ∧ noCall.WF := by decide

theorem witness_FrameLayout :
    Config.ref.WF ∧ buildPath2.dcall.WF ∧ buildPath2.scall.WF ∧ buildPath2.p1call.WF ∧ buildPath2.p2call.WF ∧
    3 = 2 + buildPath2.p1.toNat + buildPath2.p2.toNat ∧ 75 = min 80 (Config.ref.frameCap - 7 * 3 - 4) ∧
    buildPath2.p2 = true ∧ ({ buildPath2 with p1 := true } : BuildArgs).p1 = true := by decide

theorem witness_FbBuildWritesTheFrame :
    base.cfg.WF ∧ Mem.wf base.dataMem = true ∧ build.dcall.WF ∧ build.scall.WF ∧ build.p1call.WF ∧ build.p2call.WF ∧
    0xFF9C + base.cfg.frameCap ≤ 2 ^ base.cfg.addrBits ∧ build.paddr + build.plen ≤ 2 ^ base.cfg.addrBits ∧
    Unowned base 0xFF9C 24 := by
  refine ⟨ref_wf, ?_, ?_, ?_, ?_, ?_, ?_, ?_, fun a _ _ => rfl⟩ <;> decide

theorem witness_FbBuildRefusesInOrder :
    ¬ tooLong.WF ∧ build.dcall.WF ∧ build.scall.WF ∧ build.p1call.WF ∧ build.p2call.WF ∧
    2 ^ base.cfg.addrBits < 0xFF9D + base.cfg.frameCap ∧ 2 ^ base.cfg.addrBits < 0xFFFE + 3 ∧
    0x0F8 + afskOn.cfg.frameCap ≤ 2 ^ afskOn.cfg.addrBits ∧ owned afskOn 0x0100 = true ∧
    (∀ y, 0x0F8 ≤ y → y < 0x0100 → owned afskOn y = false) := by
  refine ⟨by decide, by decide, by decide, by decide, by decide, by decide, by decide, by decide, by decide, ?_⟩
  intro y h1 h2
  rw [← Bool.not_eq_true, owned_iff]
  show ¬ (_ ∨ _ ∧ _ ∧ 0x100 ≤ y ∧ _)
  rintro (⟨-, h, -⟩ | ⟨-, -, h, -⟩)
  · exact h rfl
  · omega

theorem witness_FrameLengthAndTruncation :
    base.cfg.WF ∧ (∃ t, exec (.fbBuild buildPath2) base = .next t) ∧
    3 = 2 + buildPath2.p1.toNat + buildPath2.p2.toNat := ⟨ref_wf, ⟨_, rfl⟩, rfl⟩

theorem witness_FramesEndInTheirCrc :
    base.cfg.WF ∧ Mem.wf base.dataMem = true ∧ ∃ t, exec (.fbBuild buildPath2) base = .next t :=
  ⟨ref_wf, by decide, ⟨_, rfl⟩⟩

theorem witness_FbLenReturnsLength :
    ({ base with fbLen := 0xFFFF } : State).fbLen < 2 ^ base.cfg.lenBits ∧ (∃ t, exec .reset base = .next t) ∧
    base.cfg = Config.ref ∧ ({ base with fbLen := 24 } : State).fbLen = 24 := ⟨by decide, ⟨_, rfl⟩, rfl, rfl⟩

theorem witness_B91EncWritesDigits :
    Mem.wf base.dataMem = true ∧ 2 ^ base.cfg.addrBits < 0xFFFF + (2#8 : Byte).toNat ∧
    (0xFFFF + (1#8 : Byte).toNat ≤ 2 ^ base.cfg.addrBits ∧ Unowned base 0xFFFF (1#8 : Byte).toNat) ∧
    (0x0100 + (4#8 : Byte).toNat ≤ 2 ^ afskOn.cfg.addrBits ∧ owned afskOn 0x0100 = true ∧
      ∀ y, 0x0100 ≤ y → y < 0x0100 → owned afskOn y = false) :=
  ⟨by decide, by decide, ⟨by decide, fun _ _ _ => rfl⟩, by decide, by decide, fun y h1 h2 => absurd h2 (by omega)⟩

theorem witness_B91DigitsMostSignificantFirst : 3 < 4 ∧ 0x31#8 ∈ b91 12345678 4 := by decide

theorem witness_B91RoundTrip :
    68574960 = ((List.range 4).map fun i => ((((b91 68574960 4)[i]?).getD 0#8).toNat - 33) * 91 ^ (4 - 1 - i)).sum ∧
    68574960 < 91 ^ 4 := by decide

theorem witness_OwnedBytesNeverChange :
    Mem.wf afskOn.dataMem = true ∧ owned afskOn 0x0100 = true ∧
    exec (.hostSt 0x0101 7#8) afskOn = .next { afskOn with dataMem := Mem.write afskOn.dataMem 0x0101 7#8 } :=
  ⟨by decide, by decide, rfl⟩

theorem witness_BusyDescriptorIsNeverOverwritten :
    (Instr.afskSubmit .data 0x0200 5).agent = .host ∧ Instr.afskSubmit .data 0x0200 5 ≠ .reset ∧
    exec (.afskSubmit .data 0x0200 5) afskOn = .next { afskOn with hostHeld := true } ∧ afskOn.afskLen ≠ 0 ∧
    exec (.rttySubmit .data 0x0200 5) rttyOn = .next { rttyOn with hostHeld := true } ∧ rttyOn.rttyLen ≠ 0 :=
  ⟨rfl, by decide, rfl, by decide, rfl, by decide⟩

theorem witness_OnlyStoresChangeData : exec .crcInit base = .next base := rfl

theorem witness_HostCannotTouchSequencers :
    Instr.status.agent = .host ∧ Instr.status ≠ .reset ∧
    exec .status afskOn = .next { afskOn with hostOut := [0x2A#8] } := ⟨rfl, by decide, rfl⟩

/-- `base` with other values in the seven unspecified registers. -/
def scrambled : State :=
  { base with
    rttyPtr := 9, rttyMode := .const, rttySr := 0x5A#8, afskPtr := 8, afskMode := .const, afskSample := 3, hdlcSr := 0xA5#8 }
theorem witness_UnspecifiedRegistersAreNotRead :
    AgreeWhereWritten base scrambled ∧ exec .tick base = .next base ∧
    exec (.hostSt 0x0100 0#8) afskOn = .refused (.ownedBufferWrite 0x0100) ∧
    exec (.hostLd .data 0x10000) base = .fault (.memRange .data 0x10000) :=
  ⟨⟨rfl, fun h => absurd rfl h, fun h => absurd rfl h, fun h => absurd rfl h, fun h => absurd rfl h⟩, rfl, rfl, rfl⟩

end Sys2Proof.Tests
end

section
/-! PROOFS of 40_symbol_clock.md: the divider's step by its two branches, its closed form from 0, and the clock of each
transmitter after its half of a tick. -/

namespace Sys2Proof.Machine

/-! ### The divider -/

theorem symClk_of_lt {clk n : Nat} (h : clk + 1 < n) : symClk clk n = (clk + 1, false) := if_pos h

theorem symClk_of_not_lt {clk n : Nat} (h : ¬ clk + 1 < n) : symClk clk n = (0, true) := if_neg h

/-- One step of the divider is one step of `j ↦ j mod n`, and a boundary where that returns to 0. -/
theorem symClk_mod {n : Nat} (hn : 1 ≤ n) (j : Nat) :
    symClk (j % n) n = ((j + 1) % n, decide ((j + 1) % n = 0)) := by
  have hj : j % n < n := Nat.mod_lt j hn
  rw [← Nat.mod_add_mod j n 1]
  by_cases hk : j % n + 1 < n
  · rw [symClk_of_lt hk, Nat.mod_eq_of_lt hk]
    simp
  · have hwrap : j % n + 1 = n := by omega
    rw [symClk_of_not_lt hk, hwrap, Nat.mod_self]
    simp

/-- The divider from 0 in closed form (40_symbol_clock.md R131): boundaries at the multiples of `n`. -/
theorem symClk_iterate {n : Nat} (hn : 1 ≤ n) (j : Nat) :
    (fun p : Nat × Bool => symClk p.1 n)^[j + 1] (0, false) = ((j + 1) % n, decide ((j + 1) % n = 0)) := by
  induction j with
  | zero => simpa using symClk_mod hn 0
  | succ j ih => rw [Function.iterate_succ_apply', ih, symClk_mod hn]

/-! ### The clocks of the transmitters -/

theorem exec_rttyTick (s : State) : exec .rttyTick s = rttyTickStep s := rfl

theorem exec_afskTick (s : State) : exec .afskTick s = afskTickStep s := rfl

/-- Whatever the framing does, an enabled RTTY half leaves its clock one divider step on. -/
theorem RttyTicked.rttyClk_eq {s t : State} (ht : RttyTicked s t) (hie : s.rttyIe = true) :
    t.rttyClk = (symClk s.rttyClk s.cfg.nRtty).1 := by
  cases ht with
  | off h => simp [h] at hie
  | count _ hk => rw [symClk_of_lt hk]
  | idle _ hk | start _ hk | data _ hk | stop _ hk => simp [symClk_of_not_lt (Nat.not_lt.2 hk)]

/-- The bit logic leaves a clock that stands at 0 there; only the shutdown writes it, with 0. -/
theorem HdlcStepped.afskClk_eq_zero {s t : State} (ht : HdlcStepped s t) (h0 : s.afskClk = 0) : t.afskClk = 0 := by
  cases ht with
  | shut => exact shutdown_afskClk s
  | stuffed | flag | content | bit => simpa using h0

/-- Whatever the bit logic does, an enabled AFSK half leaves its clock one divider step on. -/
theorem AfskTicked.afskClk_eq {s t : State} (ht : AfskTicked s t) (hie : s.afskIe = true) :
    t.afskClk = (symClk s.afskClk s.cfg.nAfsk).1 := by
  cases ht with
  | off h => simp [h] at hie
  | count _ hk => rw [symClk_of_lt hk]
  | boundary _ hk _ hs => rw [symClk_of_not_lt (Nat.not_lt.2 hk), hs.afskClk_eq_zero rfl]

/-- Settles O19: the divider's branches, its closed form from 0, and the clock each half of a tick leaves. -/
theorem symClkBoundariesEveryN : Obligations.SymClkBoundariesEveryN := by
  refine ⟨fun _ _ => symClk_of_lt, fun _ _ => symClk_of_not_lt, ?_, ?_, ?_⟩
  · intro n j hn hj
    obtain ⟨j, rfl⟩ := Nat.exists_eq_add_of_le' hj
    exact symClk_iterate hn j
  · intro s t hie h
    rw [exec_rttyTick] at h
    exact (rttyTickStep_cases h).rttyClk_eq hie
  · intro s t hie h
    rw [exec_afskTick] at h
    exact (afskTickStep_cases h).afskClk_eq hie

end Sys2Proof.Machine
end

section
/-! PROOFS of 44_frame_builder.md section 2: the bytes of an address field by place, the parts of a frame by place, and the
length and the truncation mark of every frame built. -/

namespace Sys2Proof.Machine

/-! ### Address fields -/

@[simp] theorem chars_length (k : Call) : k.chars.length = 6 := rfl

theorem paddedCall_length {k : Call} (h : k.WF) : (paddedCall k).length = 6 := by
  have : k.n.toNat ≤ 6 := h
  simp [paddedCall, Config.callLen]; omega

/-- The callsign's own characters stand at the left. -/
theorem paddedCall_getElem?_of_lt {k : Call} (h : k.WF) {i : Nat} (hi : i < k.n.toNat) :
    (paddedCall k)[i]? = k.chars[i]? := by
  have : k.n.toNat ≤ 6 := h
  rw [paddedCall, List.getElem?_append_left (by simp; omega), List.getElem?_take_of_lt hi]

/-- Spaces stand at the right. -/
theorem paddedCall_getElem?_of_le {k : Call} (h : k.WF) {i : Nat} (hi : k.n.toNat ≤ i) (h6 : i < 6) :
    (paddedCall k)[i]? = some 0x20#8 := by
  have hn : k.n.toNat ≤ 6 := h
  have hl : (k.chars.take k.n.toNat).length = k.n.toNat := by simp [hn]
  rw [paddedCall, List.getElem?_append_right (by omega), hl, List.getElem?_replicate_of_lt]
  show i - k.n.toNat < 6 - k.n.toNat
  omega

/-- The six callsign places of an address field are the padded callsign shifted left by one. -/
theorem addrField_getElem?_of_lt {k : Call} (h : k.WF) (ssid : Byte) (last : Bool) {i : Nat} (hi : i < 6) :
    (addrField k ssid last)[i]? = (paddedCall k)[i]?.map fun ch : Byte => ch <<< (1 : Nat) := by
  rw [addrField, List.getElem?_append_left (by simpa [paddedCall_length h] using hi), List.getElem?_map]

/-- The seventh place is the SSID byte. -/
theorem addrField_getElem?_six {k : Call} (h : k.WF) (ssid : Byte) (last : Bool) :
    (addrField k ssid last)[6]? = some (((0x30#8 + ssid) <<< (1 : Nat)) ||| (if last then 0x01#8 else 0x00#8)) := by
  have hl : ((paddedCall k).map fun ch : Byte => ch <<< (1 : Nat)).length = 6 := by simpa using paddedCall_length h
  rw [addrField, List.getElem?_append_right (by omega), hl]
  rfl

/-- The shift leaves bit 0 free, so setting the end bit adds it. -/
theorem ssidByte_toNat (ssid : Byte) (last : Bool) :
    (((0x30#8 + ssid) <<< (1 : Nat)) ||| (if last then 0x01#8 else 0x00#8)).toNat =
      (0x30 + ssid.toNat) * 2 % 256 + (if last then 1 else 0) := by
  have hs : ((0x30#8 + ssid) <<< (1 : Nat)).toNat = (0x30 + ssid.toNat) * 2 % 256 := by
    simp only [BitVec.toNat_shiftLeft, BitVec.toNat_add, BitVec.toNat_ofNat, Nat.shiftLeft_eq]
    omega
  cases last
  · simpa using hs
  · have he : (0x30 + ssid.toNat) * 2 % 256 = 2 * ((0x30 + ssid.toNat) % 128) := by omega
    rw [BitVec.toNat_or, hs, he]
    have := Nat.two_pow_add_eq_or_of_lt (i := 1) (b := 1) (by norm_num) ((0x30 + ssid.toNat) % 128)
    simpa using this.symm

/-- Settles O45: the callsign places, the padding and the SSID byte, each by its place. -/
theorem addressFieldLayout : Obligations.AddressFieldLayout := by
  intro k ssid last hk
  have hn : k.n.toNat ≤ 6 := hk
  refine ⟨addrField_length hk, ?_, ?_, _, addrField_getElem?_six hk ssid last, ssidByte_toNat ssid last⟩
  · intro i hi
    rw [addrField_getElem?_of_lt hk ssid last (by omega), paddedCall_getElem?_of_lt hk hi]
  · intro i hi h6
    rw [addrField_getElem?_of_lt hk ssid last h6, paddedCall_getElem?_of_le hk hi h6]
    rfl

/-! ### The parts of a frame -/

/-- The middle one of three byte sequences stands behind the first. -/
theorem getElem?_append_middle {l₁ l₂ l₃ : List Byte} {n i : Nat} (hn : l₁.length = n) (hi : i < l₂.length) :
    (l₁ ++ (l₂ ++ l₃))[n + i]? = l₂[i]? := by
  rw [List.getElem?_append_right (by omega), hn, Nat.add_sub_cancel_left, List.getElem?_append_left hi]

/-- The address fields present, in order: the header without control and PID (44_frame_builder.md R208). -/
def addressFields (a : BuildArgs) : List Byte :=
  addrField a.dcall a.dssid false ++
  addrField a.scall a.sssid (!a.p1 && !a.p2) ++
  (if a.p1 then addrField a.p1call a.p1ttl (!a.p2) else []) ++
  (if a.p2 then addrField a.p2call a.p2ttl true else [])

theorem frameHeader_eq (a : BuildArgs) : frameHeader a = addressFields a ++ [0x03#8, 0xF0#8] := rfl

/-- A frame is its address fields, control and PID, the payload kept, and the CRC bytes. -/
theorem frameBytes_eq_parts (c : Config) (a : BuildArgs) (payload : List Byte) :
    frameBytes c a payload =
      addressFields a ++ ([0x03#8, 0xF0#8] ++ (payload.take (frameRoom c a) ++ fcsBytes (frameCrc c a payload))) := by
  simp only [frameBytes, frameBody, frameHeader_eq, List.append_assoc]

section CallsignsFit

variable {a : BuildArgs} (hd : a.dcall.WF) (hs : a.scall.WF) (h1 : a.p1call.WF) (h2 : a.p2call.WF)

include hd in
theorem addressFields_destination {i : Nat} (hi : i < 7) :
    (addressFields a)[i]? = (addrField a.dcall a.dssid false)[i]? := by
  simp only [addressFields, List.append_assoc]
  exact List.getElem?_append_left (by rwa [addrField_length hd])

include hd hs in
theorem addressFields_source {i : Nat} (hi : i < 7) :
    (addressFields a)[7 + i]? = (addrField a.scall a.sssid (!a.p1 && !a.p2))[i]? := by
  simp only [addressFields, List.append_assoc]
  exact getElem?_append_middle (addrField_length hd) (by rwa [addrField_length hs])

include hd hs h1 in
theorem addressFields_path1 (hp : a.p1 = true) {i : Nat} (hi : i < 7) :
    (addressFields a)[14 + i]? = (addrField a.p1call a.p1ttl (!a.p2))[i]? := by
  rw [addressFields, if_pos hp, List.append_assoc]
  exact getElem?_append_middle (by simp [addrField_length hd, addrField_length hs]) (by rwa [addrField_length h1])

include hd hs h1 in
/-- The fields before the place of path 2. -/
theorem fieldsBeforePath2_length :
    (addrField a.dcall a.dssid false ++ addrField a.scall a.sssid (!a.p1 && !a.p2) ++
      (if a.p1 then addrField a.p1call a.p1ttl (!a.p2) else [])).length = 7 * (2 + a.p1.toNat) := by
  cases a.p1 <;> simp [addrField_length, hd, hs, h1]

include hd hs h1 in
theorem addressFields_path2 (hp : a.p2 = true) (i : Nat) :
    (addressFields a)[7 * (2 + a.p1.toNat) + i]? = (addrField a.p2call a.p2ttl true)[i]? := by
  rw [addressFields, if_pos hp, List.getElem?_append_right (by rw [fieldsBeforePath2_length hd hs h1]; omega),
    fieldsBeforePath2_length hd hs h1, Nat.add_sub_cancel_left]

variable {c : Config} {payload : List Byte} {k m : Nat} (hk : k = 2 + a.p1.toNat + a.p2.toNat)
  (hm : m = min payload.length (c.frameCap - 7 * k - 4))

include hd hs h1 h2 hk

theorem addressFields_length : (addressFields a).length = 7 * k := by
  have h := frameHeader_length hd hs h1 h2
  rw [frameHeader_eq, List.length_append, ← hk] at h
  exact Nat.add_right_cancel h

theorem frameRoom_eq : frameRoom c a = c.frameCap - 7 * k - 4 := by
  rw [frameRoom, frameHeader_length hd hs h1 h2, ← hk]
  omega

theorem frameTrunc_eq : frameTrunc c a payload = decide (c.frameCap - 7 * k - 4 < payload.length) := by
  rw [frameTrunc, frameRoom_eq hd hs h1 h2 hk]

/-- A frame begins with its address fields. -/
theorem frameBytes_addressFields {i : Nat} (hi : i < 7 * k) : (frameBytes c a payload)[i]? = (addressFields a)[i]? := by
  rw [frameBytes_eq_parts, List.getElem?_append_left (by rwa [addressFields_length hd hs h1 h2 hk])]

/-- Control and PID stand behind the address fields. -/
theorem frameBytes_control {i : Nat} (hi : i < 2) : (frameBytes c a payload)[7 * k + i]? = [0x03#8, 0xF0#8][i]? := by
  rw [frameBytes_eq_parts]
  exact getElem?_append_middle (addressFields_length hd hs h1 h2 hk) hi

include hm

theorem length_payloadKept : (payload.take (frameRoom c a)).length = m := by
  rw [List.length_take, frameRoom_eq hd hs h1 h2 hk, Nat.min_comm, hm]

/-- The payload kept stands behind the header. -/
theorem frameBytes_payload {j : Nat} (hj : j < m) : (frameBytes c a payload)[7 * k + 2 + j]? = payload[j]? := by
  have hkept := length_payloadKept hd hs h1 h2 hk hm
  have hroom : j < frameRoom c a := lt_of_lt_of_le (hkept ▸ hj) (List.length_take_le _ _)
  rw [frameBytes, frameBody, List.append_assoc, hk, getElem?_append_middle (frameHeader_length hd hs h1 h2) (hkept ▸ hj),
    List.getElem?_take_of_lt hroom]

theorem frameBody_length : (frameBody c a payload).length = 7 * k + 2 + m := by
  rw [frameBody, List.length_append, frameHeader_length hd hs h1 h2, length_payloadKept hd hs h1 h2 hk hm, hk]

/-- The frame without its two CRC bytes is what the CRC is taken of. -/
theorem frameBytes_take : (frameBytes c a payload).take (7 * k + 2 + m) = frameBody c a payload :=
  List.take_left' (frameBody_length hd hs h1 h2 hk hm)

/-- The CRC bytes end the frame. -/
theorem frameBytes_fcs (i : Nat) :
    (frameBytes c a payload)[7 * k + 2 + m + i]? = (fcsBytes (crcBytes (frameBody c a payload)))[i]? := by
  have hl := frameBody_length hd hs h1 h2 hk hm
  rw [frameBytes, List.getElem?_append_right (by omega), hl, Nat.add_sub_cancel_left, frameCrc]

end CallsignsFit

theorem frameCap_ge_of_wf {c : Config} (h : c.WF) : 32 ≤ c.frameCap := by
  obtain ⟨-, -, -, -, -, -, -, -, -, -, -, -, -, -, -, -, -, hcap, -⟩ := h
  exact hcap

/-- Settles O46: every part of the frame by its place, an address field by its place among the address fields. -/
theorem frameLayout : Obligations.FrameLayout := by
  intro c a payload k m hc hd hs h1 h2 hk hm
  have hlen : (frameBytes c a payload).length = 7 * k + 4 + m := by rw [frameBytes_length hd hs h1 h2, ← hk, hm]
  have hcap := frameBytes_le_cap (payload := payload) (frameCap_ge_of_wf hc) hd hs h1 h2
  have hfcs := frameBytes_fcs hd hs h1 h2 hk hm
  rw [frameBytes_take hd hs h1 h2 hk hm]
  refine ⟨hlen, hlen ▸ hcap, frameTrunc_eq hd hs h1 h2 hk, rfl, ?dest, ?source, ?path1, ?path2,
    frameBytes_control hd hs h1 h2 hk (i := 0) (by decide), frameBytes_control hd hs h1 h2 hk (i := 1) (by decide),
    fun j => frameBytes_payload hd hs h1 h2 hk hm, hfcs 0, ?fcsHigh⟩
  case dest =>
    intro i hi
    rw [frameBytes_addressFields hd hs h1 h2 hk (by omega), addressFields_destination hd hi]
  case source =>
    intro i hi
    rw [frameBytes_addressFields hd hs h1 h2 hk (by omega), addressFields_source hd hs hi]
  case path1 =>
    intro hp i hi
    have hk3 : 3 ≤ k := by simp [hk, hp]
    rw [frameBytes_addressFields hd hs h1 h2 hk (by omega), addressFields_path1 hd hs h1 hp hi]
  case path2 =>
    intro hp i hi
    have hk1 : k - 1 = 2 + a.p1.toNat := by simp [hk, hp]
    rw [frameBytes_addressFields hd hs h1 h2 hk (by omega), hk1, addressFields_path2 hd hs h1 hp]
  case fcsHigh =>
    rw [show 7 * k + 3 + m = 7 * k + 2 + m + 1 by omega]
    exact hfcs 1

/-! ### The length of a frame built -/

theorem exec_fbBuild (a : BuildArgs) (s : State) : exec (.fbBuild a) s = execFbBuild a s := rfl

/-- Settles O49: the length and the mark are those of the frame written, which has at least two address fields. -/
theorem frameLengthAndTruncation : Obligations.FrameLengthAndTruncation := by
  refine ⟨?_, rfl, rfl, rfl⟩
  intro s t a k hc h hk
  rw [exec_fbBuild] at h
  obtain ⟨hd, hs, h1, h2, -, -, u, -, rfl⟩ := execFbBuild_cases h
  have hlen : (frameBytes s.cfg a (pendingBytes s a.pmode a.paddr a.plen)).length =
      7 * k + 4 + min a.plen (s.cfg.frameCap - 7 * k - 4) := by
    rw [frameBytes_length hd hs h1 h2, pendingBytes_length, ← hk]
  have htrunc := frameTrunc_eq hd hs h1 h2 hk (c := s.cfg) (payload := pendingBytes s a.pmode a.paddr a.plen)
  refine ⟨hlen, ?_, frameBytes_le_cap (frameCap_ge_of_wf hc) hd hs h1 h2, ?_⟩
  · calc
      18 ≤ 7 * k + 4 + min a.plen (s.cfg.frameCap - 7 * k - 4) := by omega
      _ = _ := hlen.symm
  · simp [htrunc]

end Sys2Proof.Machine
end

section
/-! PROOFS of 45_base91.md: the digits by their place and their range, and `B91.ENC` by its range check, its ownership check
and its write. -/

namespace Sys2Proof.Machine

/-! ### The digits -/

/-- A digit's byte, read as a number: the offset leaves room for all 91 digits. -/
theorem b91Digit_toNat {d : Nat} (h : d < 91) : (b91Digit d).toNat = d + 33 := by
  rw [b91Digit, Config.b91Offset, BitVec.toNat_ofNat]
  omega

/-- The digits before the last are those of the quotient. -/
theorem b91_succ_getElem?_of_lt {v w i : Nat} (h : i < w) : (b91 v (w + 1))[i]? = (b91 (v / 91) w)[i]? := by
  rw [b91, List.getElem?_append_left (by simpa using h), Config.b91Radix]

/-- The last digit is the remainder. -/
theorem b91_succ_getElem?_last (v w : Nat) : (b91 v (w + 1))[w]? = some (b91Digit (v % 91)) := by
  rw [b91, List.getElem?_append_right (by simp), b91_length, Nat.sub_self, Config.b91Radix]
  rfl

/-- A digit by its place (45_base91.md R230). -/
theorem b91_getElem? {v w i : Nat} (h : i < w) : (b91 v w)[i]? = some (b91Digit (v / 91 ^ (w - 1 - i) % 91)) := by
  induction w generalizing v with
  | zero => omega
  | succ w ih =>
    rcases Nat.lt_succ_iff_lt_or_eq.1 h with hi | rfl
    · have hexp : w + 1 - 1 - i = (w - 1 - i) + 1 := by omega
      rw [b91_succ_getElem?_of_lt hi, ih hi, Nat.div_div_eq_div_mul, hexp, Nat.pow_succ']
    · rw [b91_succ_getElem?_last, Nat.add_sub_cancel, Nat.sub_self, Nat.pow_zero, Nat.div_one]

/-- Every byte encodes one digit. -/
theorem exists_digit_of_mem_b91 {v w : Nat} {b : Byte} (h : b ∈ b91 v w) : ∃ d < 91, b = b91Digit d := by
  obtain ⟨i, hi⟩ := List.mem_iff_getElem?.1 h
  have hlt : i < w := by simpa using (List.getElem?_eq_some_iff.1 hi).1
  rw [b91_getElem? hlt, Option.some.injEq] at hi
  exact ⟨_, Nat.mod_lt _ (by decide), hi.symm⟩

/-- Settles O53: the digits by their place, and the range of a digit's byte. -/
theorem b91DigitsMostSignificantFirst : Obligations.B91DigitsMostSignificantFirst := by
  intro v w
  refine ⟨b91_length v w, fun i => b91_getElem?, ?_⟩
  intro b hb
  obtain ⟨d, hd, rfl⟩ := exists_digit_of_mem_b91 hb
  have hbyte := b91Digit_toNat hd
  omega

/-! ### B91.ENC -/

/-- A checked write whose lowest owned address is `x` is refused there, before any write. -/
theorem writeRange_of_lowest {s : State} {addr x : Nat} {bs : List Byte} (hlo : addr ≤ x) (hhi : x < addr + bs.length)
    (hx : owned s x = true) (hlowest : ∀ y, addr ≤ y → y < x → owned s y = false) :
    writeRange s addr bs = .refused (.ownedBufferWrite x) := by
  rw [writeRange, refuseOwned, firstOwned_of_lowest hlo hhi hx hlowest]

theorem exec_b91Enc (value : Nat) (width : Byte) (dst : Nat) (s : State) :
    exec (.b91Enc value width dst) s = execB91Enc value width dst s := rfl

section Operands

variable {s : State} {value : Nat} {width : Byte} {dst : Nat}

theorem execB91Enc_of_bad_range (h : ¬ rangeOk s.cfg dst width.toNat) :
    execB91Enc value width dst s = .refused (.badOperand 0x40#8 .dst) := requireRange_of_bad h

theorem execB91Enc_of_range (h : rangeOk s.cfg dst width.toNat) :
    execB91Enc value width dst s = writeRange s dst (b91 value width.toNat) := requireRange_of_ok h

theorem execB91Enc_of_lowest {x : Nat} (h : rangeOk s.cfg dst width.toNat) (hlo : dst ≤ x) (hhi : x < dst + width.toNat)
    (hx : owned s x = true) (hlowest : ∀ y, dst ≤ y → y < x → owned s y = false) :
    execB91Enc value width dst s = .refused (.ownedBufferWrite x) := by
  rw [execB91Enc_of_range h, writeRange_of_lowest hlo (by simpa using hhi) hx hlowest]

/-- A B91.ENC that is not refused goes on, and has written its digits. -/
theorem execB91Enc_of_unowned (hwf : Mem.wf s.dataMem = true) (h : rangeOk s.cfg dst width.toNat)
    (hu : Unowned s dst width.toNat) :
    ∃ t, execB91Enc value width dst s = .next t ∧ WroteBytes s dst (b91 value width.toNat) t := by
  obtain ⟨t, ht⟩ := writeRange_of_range (bs := b91 value width.toNat) (by simpa using hu) (by simpa using h)
  exact ⟨t, by rw [execB91Enc_of_range h, ht], (writeRange_spec hwf ht).2⟩

end Operands

/-- Settles O52: the two refusals in their order, and the write read back digit by digit. -/
theorem b91EncWritesDigits : Obligations.B91EncWritesDigits := by
  intro s value width dst hwf
  rw [exec_b91Enc]
  refine ⟨rfl, fun hout => execB91Enc_of_bad_range (Nat.not_le.2 hout),
    fun x hin hlo hhi hx hlowest => execB91Enc_of_lowest hin hlo hhi hx hlowest, ?_⟩
  intro hin hu
  obtain ⟨t, ht, hwrote⟩ := execB91Enc_of_unowned (value := value) hwf hin hu
  refine ⟨t, ht, hwrote.frame, ?_⟩
  intro x
  rw [hwrote.read x, b91_length]
  split
  · next hx =>
    have hplace : x - dst < width.toNat := by omega
    rw [b91_getElem? hplace]
    rfl
  · rfl

end Sys2Proof.Machine
end

section
/-! PROOFS of 46_system.md: what `RESET` leaves in the unspecified registers, the STATUS word and the ports, and `HOST.ST` by
its ownership check and its write of one byte. -/

namespace Sys2Proof.Machine

/-! ### RESET -/

theorem exec_reset (s : State) : exec .reset s = .next (resetRegisters s) := rfl

/-- A free value fits the width it is drawn for. -/
theorem freeBits_lt (s : State) (k w : Nat) : freeBits s k w < 2 ^ w := trunc_lt w _

theorem statusBit_false (place : Nat) : statusBit false place = 0#8 := rfl

/-- A STATUS word of idle transmitters, closed enables, masked ticks and an untruncated frame has no bit set. -/
theorem statusWord_resetRegisters (s : State) : statusWord (resetRegisters s) = 0x00#8 := by
  have hrtty : rttyBusy (resetRegisters s) = false := by simp [rttyBusy]
  have hafsk : afskBusy (resetRegisters s) = false := by simp [afskBusy]
  simp [statusWord, hrtty, hafsk, statusBit_false]

theorem portsOf_resetRegisters (s : State) :
    portsOf (resetRegisters s) = ⟨true, false, (resetRegisters s).afskSample, false⟩ := rfl

/-- Settles O13: the registers with a stated value are read off `resetRegisters`, the unspecified ones of a parameter width
are free values of that width, and the STATUS word and the ports are those of the reset registers. -/
theorem resetLeavesTable : Obligations.ResetLeavesTable := by
  intro s
  refine ⟨rfl, resetRegisters s, exec_reset s, ?_⟩
  have hrest : s.cfg.restIdle = 10 + s.cfg.restCount := rfl
  have hcrc : Config.crcInit = 0xFFFF#16 := rfl
  simp [hrest, hcrc, freeBits_lt, statusWord_resetRegisters, portsOf_resetRegisters, sameMemory]

/-! ### HOST.ST -/

theorem exec_hostSt (addr : Nat) (b : Byte) (s : State) : exec (.hostSt addr b) s = execHostSt addr b s := rfl

theorem encode_hostSt (c : Config) (addr : Nat) (b : Byte) :
    encode c (.hostSt addr b) = 0x03#8 :: (writeNat c.addrBits addr ++ [b]) := rfl

section Store

variable {s : State} {addr : Nat} {b : Byte}

/-- A range of one byte is unowned when that byte is. -/
theorem unowned_one (ho : owned s addr = false) : Unowned s addr 1 := by
  intro a hlo hhi
  obtain rfl : a = addr := by omega
  exact ho

theorem execHostSt_of_owned (ho : owned s addr = true) : execHostSt addr b s = .refused (.ownedBufferWrite addr) := by
  rw [execHostSt, refuseOwned, firstOwned, if_pos ho]

theorem execHostSt_of_unowned (ho : owned s addr = false) (ha : addr < s.cfg.spaceSize) :
    execHostSt addr b s = .next { s with dataMem := Mem.write s.dataMem addr b } := by
  rw [execHostSt, refuseOwned_of_unowned (unowned_one ho), memWrite_of_lt ha]

end Store

/-- Settles O14: the two outcomes of the ownership check, and DATA read back after the write. -/
theorem hostStoreWritesOneByte : Obligations.HostStoreWritesOneByte := by
  intro s addr b hwf ha
  rw [exec_hostSt]
  refine ⟨encode_hostSt s.cfg addr b, owned_iff, execHostSt_of_owned, fun ho => ?_⟩
  exact ⟨_, execHostSt_of_unowned ho ha, rfl, fun x => Mem.read_write addr b x hwf⟩

end Sys2Proof.Machine
end

section
/-! PROOFS of 60_exceptions.md: the opcodes the host's decoder does not take, and the refusal of the host's turn that meets
one. -/

namespace Sys2Proof.Machine

/-! ### The opcode bytes -/

/-- The opcode bytes of the map (30_encoding.md R95), as numbers. -/
def assignedOpcodes : List Nat :=
  [0x01, 0x02, 0x03, 0x04, 0x05, 0x10, 0x11, 0x12, 0x13, 0x14, 0x20, 0x22, 0x23, 0x24, 0x30, 0x31, 0x32, 0x38, 0x39, 0x40]

/-- The opcode bytes only the tick agent issues, as numbers. -/
def tickOpcodes : List Nat := [0x02, 0x14, 0x24]

/-! ### The decoder -/

/-- A byte outside the map reaches no format, whatever follows it (30_encoding.md R96). -/
theorem decodeCommand_of_unassigned {op : Byte} (c : Config) (bs : List Byte) (h : op.toNat ∉ assignedOpcodes) :
    decodeCommand c op bs = .error (.illegalOpcode op) := by
  unfold decodeCommand
  split
  case h_21 => rfl
  all_goals
    next hop => exact absurd (by rw [hop]; decide) h

theorem decodeHost_of_decode_error {c : Config} {bs : List Byte} {e : DecodeError} (h : decode c bs = .error e) :
    decodeHost c bs = .error e := by
  rw [decodeHost, h]

theorem decodeHost_of_tick {c : Config} {bs rest : List Byte} {i : Instr} (h : decode c bs = .ok (i, rest))
    (hi : i.agent = .tick) : decodeHost c bs = .error (.illegalOpcode (opcodeOf i)) := by
  simp only [decodeHost, h, hi]

/-- A tick-agent opcode stands for an operation without operands, and that operation is the tick agent's. -/
theorem decode_of_tickOpcode {op : Byte} (c : Config) (bs : List Byte) (h : op.toNat ∈ tickOpcodes) :
    ∃ i : Instr, decode c (op :: bs) = .ok (i, bs) ∧ opcodeOf i = op ∧ i.agent = .tick := by
  simp only [tickOpcodes, List.mem_cons, List.not_mem_nil, or_false] at h
  rcases h with hop | hop | hop
  · obtain rfl : op = 0x02#8 := BitVec.eq_of_toNat_eq hop
    exact ⟨.tick, rfl, rfl, rfl⟩
  · obtain rfl : op = 0x14#8 := BitVec.eq_of_toNat_eq hop
    exact ⟨.rttyTick, rfl, rfl, rfl⟩
  · obtain rfl : op = 0x24#8 := BitVec.eq_of_toNat_eq hop
    exact ⟨.afskTick, rfl, rfl, rfl⟩

/-- The host's decoder takes neither a byte outside the map nor a tick-agent opcode (60_exceptions.md R251). -/
theorem decodeHost_of_illegal {op : Byte} (c : Config) (bs : List Byte)
    (h : op.toNat ∉ assignedOpcodes ∨ op.toNat ∈ tickOpcodes) :
    decodeHost c (op :: bs) = .error (.illegalOpcode op) := by
  rcases h with hun | htick
  · exact decodeHost_of_decode_error (decodeCommand_of_unassigned c bs hun)
  · obtain ⟨i, hdec, rfl, hagent⟩ := decode_of_tickOpcode c bs htick
    exact decodeHost_of_tick hdec hagent

/-! ### The host's turn -/

theorem hostTurn_of_illegalOpcode {s : State} {op : Byte} (h : decodeHost s.cfg s.hostIn = .error (.illegalOpcode op)) :
    hostTurn s = .refused (.illegalOpcode op) := by
  rw [hostTurn, h]

/-- Settles O7: the step is the host's turn, and its decoder refuses both kinds of byte. -/
theorem illegalOpcodeIsRefused : Obligations.IllegalOpcodeIsRefused := by
  intro s u op bs hturn hin hop
  rw [step_host hturn]
  apply hostTurn_of_illegalOpcode
  rw [hin]
  exact decodeHost_of_illegal u.cfg bs hop

end Sys2Proof.Machine
end

section
/-! PROOFS of 30_encoding.md Part A: what each field's reader does at the bytes of a value, how field rules make the rule of
a format, and from the rules of all operations the two round trips and the refusals of 60_exceptions.md R252. -/

namespace Sys2Proof.Machine

/-! ### One field -/

/-- What a field's reader does at the bytes `w` of a value `v`: it reads them back, refuses them cut, and refuses malformed
bytes in their place (30_encoding.md R92, R94; 60_exceptions.md R252). -/
structure ReadsField (c : Config) (op : Byte) (f : Field) {α : Type}
    (r : List Byte → Except DecodeError (α × List Byte)) (v : α) (w : List Byte) : Prop where
  length : w.length = fieldBytes (fieldWidth c f)
  whole : ∀ rest, r (w ++ rest) = .ok (v, rest)
  cut : ∀ rest m, m < w.length → r ((w ++ rest).take m) = .error (.badOperand op f)
  malformed : ∀ bad rest, bad.length = fieldBytes (fieldWidth c f) → FieldMalformed c f bad →
    r (bad ++ rest) = .error (.badOperand op f)

section Fields

variable {c : Config} {op : Byte} (f : Field)

theorem readsField_nat {w v : Nat} (hv : v < 2 ^ w) (hw : fieldWidth c f = w)
    (hbad : ∀ bs, FieldMalformed c f bs → 2 ^ w ≤ ofBytesBE bs) :
    ReadsField c op f (readNat op f w) v (writeNat w v) where
  length := by rw [writeNat_length, hw]
  whole rest := readNat_writeNat rest hv
  cut rest m hm := by rw [readNat_take hv, if_pos (by simpa using hm)]
  malformed bad rest hl hm := readNat_malformed rest (hw ▸ hl) (hbad bad hm)

theorem readsField_byte (b : Byte) (hw : fieldWidth c f = 8)
    (hbad : ∀ bs, FieldMalformed c f bs → 2 ^ 8 ≤ ofBytesBE bs) : ReadsField c op f (readByte op f) b [b] where
  length := by rw [hw]; rfl
  whole rest := readByte_cons op f b rest
  cut rest m hm := by rw [List.singleton_append, readByte_take]; exact if_pos hm
  malformed bad rest hl hm := absurd (hbad bad hm) (not_malformed_byte (hw ▸ hl))

theorem readsField_on (on : Bool) (hw : fieldWidth c f = 1)
    (hbad : ∀ bs, FieldMalformed c f bs → 2 ^ 1 ≤ ofBytesBE bs) : ReadsField c op f (readOn op f) on (writeOn on) where
  length := by rw [hw]; rfl
  whole rest := readOn_writeOn on rest
  cut rest m hm := by rw [readOn_take]; exact if_pos hm
  malformed bad rest hl hm := readOn_malformed rest (hw ▸ hl) (hbad bad hm)

theorem readsField_mode (mode : Space) (hw : fieldWidth c f = 1)
    (hbad : ∀ bs, FieldMalformed c f bs → 2 ^ 1 ≤ ofBytesBE bs) :
    ReadsField c op f (readMode op f) mode (writeMode mode) where
  length := by rw [writeMode_length, hw]; rfl
  whole rest := readMode_writeMode mode rest
  cut rest m hm := by rw [readMode_take, if_pos (by simpa [writeMode_length] using hm)]
  malformed bad rest hl hm := readMode_malformed rest (hw ▸ hl) (hbad bad hm)

theorem readsField_call {k : Call} (hk : k.WF) (hw : fieldWidth c f = 56)
    (hbad : ∀ bs, FieldMalformed c f bs → 6 < (bs.headD 0#8).toNat) :
    ReadsField c op f (readCall op f) k (writeCall k) where
  length := by rw [hw]; rfl
  whole rest := readCall_writeCall rest hk
  cut rest m hm := by rw [readCall_take hk]; exact if_pos hm
  malformed bad rest hl hm := readCall_malformed rest (hw ▸ hl) (hbad bad hm)

end Fields

/-! ### The fields of a format -/

/-- What a reader of the fields `fs` does at their bytes: it reads operation `i` back, refuses a cut by the field it falls in,
and refuses a malformed field by its name. -/
structure ReadsFields (c : Config) (op : Byte) (p : List Byte → Except DecodeError (Instr × List Byte)) (fs : List Field)
    (i : Instr) (bytes : List Byte) : Prop where
  whole : ∀ rest, p (bytes ++ rest) = .ok (i, rest)
  cut : ∀ m, m < bytes.length → ∃ f, fieldAt c fs m = some f ∧ p (bytes.take m) = .error (.badOperand op f)
  malformed : ∀ f bad rest, f ∈ fs → bad.length = fieldBytes (fieldWidth c f) → FieldMalformed c f bad →
    p (bytes.take (fieldOffset c fs f) ++ bad ++ rest) = .error (.badOperand op f)

theorem readsFields_nil (c : Config) (op : Byte) (i : Instr) : ReadsFields c op (fun bs => .ok (i, bs)) [] i [] where
  whole _ := rfl
  cut _ hm := absurd hm (Nat.not_lt_zero _)
  malformed _ _ _ hf := absurd hf List.not_mem_nil

theorem fieldOffset_cons_same (c : Config) (f : Field) (fs : List Field) : fieldOffset c (f :: fs) f = 0 := by
  simp [fieldOffset]

theorem fieldOffset_cons_other (c : Config) {f g : Field} (fs : List Field) (h : f ≠ g) :
    fieldOffset c (f :: fs) g = fieldBytes (fieldWidth c f) + fieldOffset c fs g := by
  simp [fieldOffset, h]

theorem ok_bind {α β : Type} (a : α) (k : α → Except DecodeError β) :
    ((Except.ok a : Except DecodeError α) >>= k) = k a := rfl

theorem error_bind {α β : Type} (e : DecodeError) (k : α → Except DecodeError β) :
    ((Except.error e : Except DecodeError α) >>= k) = .error e := rfl

/-- A field's rule put in front of the rule of the fields after it. -/
theorem ReadsField.cons {c : Config} {op : Byte} {f : Field} {α : Type} {r : List Byte → Except DecodeError (α × List Byte)}
    {v : α} {w : List Byte} {k : α × List Byte → Except DecodeError (Instr × List Byte)} {fs : List Field} {i : Instr}
    {bytes : List Byte} (hr : ReadsField c op f r v w) (hk : ReadsFields c op (fun bs => k (v, bs)) fs i bytes) :
    ReadsFields c op (fun bs => r bs >>= k) (f :: fs) i (w ++ bytes) where
  whole rest := by rw [List.append_assoc, hr.whole, ok_bind]; exact hk.whole rest
  cut m hm := by
    by_cases hin : m < w.length
    · exact ⟨f, by rw [fieldAt, if_pos (hr.length ▸ hin)], by rw [hr.cut bytes m hin, error_bind]⟩
    · obtain ⟨g, hg, hcut⟩ := hk.cut (m - w.length) (by rw [List.length_append] at hm; omega)
      refine ⟨g, by rw [fieldAt, if_neg (hr.length ▸ hin), ← hr.length, hg], ?_⟩
      rw [List.take_append, List.take_of_length_le (Nat.not_lt.1 hin), hr.whole, ok_bind]
      exact hcut
  malformed g bad rest hg hl hbad := by
    by_cases hfg : f = g
    · subst hfg
      rw [fieldOffset_cons_same, List.take_zero, List.nil_append, hr.malformed bad rest hl hbad, error_bind]
    · have hmem : g ∈ fs := (List.mem_cons.1 hg).resolve_left (Ne.symm hfg)
      rw [fieldOffset_cons_other c fs hfg, ← hr.length, List.take_length_add_append, List.append_assoc, List.append_assoc,
        hr.whole, ok_bind, ← List.append_assoc]
      exact hk.malformed g bad rest hmem hl hbad

theorem ReadsFields.congr_bytes {c : Config} {op : Byte} {p : List Byte → Except DecodeError (Instr × List Byte)}
    {fs : List Field} {i : Instr} {bytes bytes' : List Byte} (h : ReadsFields c op p fs i bytes) (e : bytes = bytes') :
    ReadsFields c op p fs i bytes' := e ▸ h

/-! ### The formats (30_encoding.md R93) -/

section Formats

variable {c : Config} {op : Byte}

theorem readsFields_FON (mk : Bool → Instr) (on : Bool) :
    ReadsFields c op (readFON op mk) [.on] (mk on) (writeOn on) :=
  ((readsField_on .on on rfl fun _ h => h).cons (readsFields_nil c op (mk on))).congr_bytes (List.append_nil _)

theorem readsFields_FSUB (mk : Space → Nat → Nat → Instr) (mode : Space) {addr len : Nat} (ha : c.addrOk addr)
    (hl : c.lenOk len) :
    ReadsFields c op (readFSUB c op mk) [.mode, .addr, .len] (mk mode addr len)
      (writeMode mode ++ writeNat c.addrBits addr ++ writeNat c.lenBits len) :=
  ((readsField_mode .mode mode rfl fun _ h => h).cons <|
    (readsField_nat .addr ha rfl fun _ h => h).cons <|
    (readsField_nat .len hl rfl fun _ h => h).cons (readsFields_nil c op (mk mode addr len))).congr_bytes (by simp)

theorem readsFields_FST {addr : Nat} (b : Byte) (ha : c.addrOk addr) :
    ReadsFields c op (readFST c op) [.addr, .b] (.hostSt addr b) (writeNat c.addrBits addr ++ [b]) :=
  (readsField_nat .addr ha rfl fun _ h => h).cons <|
    (readsField_byte .b b rfl fun _ h => h).cons (readsFields_nil c op (.hostSt addr b))

theorem readsFields_FLD (mode : Space) {addr : Nat} (ha : c.addrOk addr) :
    ReadsFields c op (readFLD c op) [.mode, .addr] (.hostLd mode addr) (writeMode mode ++ writeNat c.addrBits addr) :=
  ((readsField_mode .mode mode rfl fun _ h => h).cons <|
    (readsField_nat .addr ha rfl fun _ h => h).cons (readsFields_nil c op (.hostLd mode addr))).congr_bytes (by simp)

theorem readsFields_FB8 (b : Byte) : ReadsFields c op (readFB8 op) [.b] (.crcByte b) [b] :=
  (readsField_byte .b b rfl fun _ h => h).cons (readsFields_nil c op (.crcByte b))

theorem readsFields_FB91 {value dst : Nat} (width : Byte) (hv : c.valueOk value) (hd : c.addrOk dst) :
    ReadsFields c op (readFB91 c op) [.value, .width, .dst] (.b91Enc value width dst)
      (writeNat c.b91ValueBits value ++ [width] ++ writeNat c.addrBits dst) :=
  ((readsField_nat .value hv rfl fun _ h => h).cons <|
    (readsField_byte .width width rfl fun _ h => h).cons <|
    (readsField_nat .dst hd rfl fun _ h => h).cons (readsFields_nil c op (.b91Enc value width dst))).congr_bytes (by simp)

theorem readsFields_FFB {a : BuildArgs} (h : a.WF c) :
    ReadsFields c op (readFFB c op) (fieldsOf (.fbBuild a)) (.fbBuild a) (operandBytes c (.fbBuild a)) := by
  obtain ⟨hdst, hd, hs, h1, h2, hpaddr, hplen⟩ := h
  exact ((readsField_nat .dst hdst rfl fun _ h => h).cons <|
    (readsField_call .dcall hd rfl fun _ h => h).cons <| (readsField_byte .dssid a.dssid rfl fun _ h => h).cons <|
    (readsField_call .scall hs rfl fun _ h => h).cons <| (readsField_byte .sssid a.sssid rfl fun _ h => h).cons <|
    (readsField_on .p1 a.p1 rfl fun _ h => h).cons <|
    (readsField_call .p1call h1 rfl fun _ h => h).cons <| (readsField_byte .p1ttl a.p1ttl rfl fun _ h => h).cons <|
    (readsField_on .p2 a.p2 rfl fun _ h => h).cons <|
    (readsField_call .p2call h2 rfl fun _ h => h).cons <| (readsField_byte .p2ttl a.p2ttl rfl fun _ h => h).cons <|
    (readsField_mode .pmode a.pmode rfl fun _ h => h).cons <|
    (readsField_nat .paddr hpaddr rfl fun _ h => h).cons <|
    (readsField_nat .plen hplen rfl fun _ h => h).cons (readsFields_nil c op (.fbBuild a))).congr_bytes
      (by simp [operandBytes])

end Formats

/-! ### Every operation -/

/-- The decoder of an operation's opcode reads the operands of a well-formed operation by the rules of its format. -/
theorem readsFields_operands {c : Config} {i : Instr} (h : i.WF c) :
    ReadsFields c (opcodeOf i) (decodeCommand c (opcodeOf i)) (fieldsOf i) i (operandBytes c i) := by
  cases i with
  | reset | tick | status | rttyWait | rttyTick | afskWait | afskTick | crcInit | crcFcs | fbLen =>
    exact readsFields_nil c _ _
  | hostSt addr b => exact readsFields_FST b (of_decide_eq_true h)
  | hostLd mode addr => exact readsFields_FLD mode (of_decide_eq_true h)
  | rttySubmit mode addr len =>
    obtain ⟨ha, hl⟩ := of_decide_eq_true h
    exact readsFields_FSUB .rttySubmit mode ha hl
  | afskSubmit mode addr len =>
    obtain ⟨ha, hl⟩ := of_decide_eq_true h
    exact readsFields_FSUB .afskSubmit mode ha hl
  | rttyEnable on => exact readsFields_FON .rttyEnable on
  | rttyIrq on => exact readsFields_FON .rttyIrq on
  | afskIrq on => exact readsFields_FON .afskIrq on
  | crcByte b => exact readsFields_FB8 b
  | fbBuild a => exact readsFields_FFB (of_decide_eq_true h)
  | b91Enc value width dst =>
    obtain ⟨hv, hd⟩ := of_decide_eq_true h
    exact readsFields_FB91 width hv hd

/-- Settles O5: the opcode byte selects the format, whose rule reads the operands back. -/
theorem encodedCommandsDecodeBack : Obligations.EncodedCommandsDecodeBack :=
  fun _ _ rest h => (readsFields_operands h).whole rest

/-! ### What bytes a decoded operation had before it -/

section Converse

variable {c : Config} {op : Byte} {bs rest : List Byte} {i : Instr}

theorem readFON_eq_ok {mk : Bool → Instr} (h : readFON op mk bs = .ok (i, rest)) :
    ∃ on, i = mk on ∧ bs = writeOn on ++ rest := by
  obtain ⟨⟨on, bs1⟩, hon, h⟩ := except_bind_ok.1 h
  cases h
  exact ⟨on, rfl, readOn_eq_ok hon⟩

theorem readFSUB_eq_ok {mk : Space → Nat → Nat → Instr} (h : readFSUB c op mk bs = .ok (i, rest)) :
    ∃ mode addr len, i = mk mode addr len ∧ (c.addrOk addr ∧ c.lenOk len) ∧
      bs = writeMode mode ++ writeNat c.addrBits addr ++ writeNat c.lenBits len ++ rest := by
  obtain ⟨⟨mode, bs1⟩, hmode, h⟩ := except_bind_ok.1 h
  obtain ⟨⟨addr, bs2⟩, haddr, h⟩ := except_bind_ok.1 h
  obtain ⟨⟨len, bs3⟩, hlen, h⟩ := except_bind_ok.1 h
  cases h
  obtain rfl := readMode_eq_ok hmode
  obtain ⟨ha, rfl⟩ := readNat_eq_ok haddr
  obtain ⟨hl, rfl⟩ := readNat_eq_ok hlen
  exact ⟨mode, addr, len, rfl, ⟨ha, hl⟩, by simp⟩

theorem readFST_eq_ok (h : readFST c op bs = .ok (i, rest)) :
    ∃ addr b, i = .hostSt addr b ∧ c.addrOk addr ∧ bs = writeNat c.addrBits addr ++ [b] ++ rest := by
  obtain ⟨⟨addr, bs1⟩, haddr, h⟩ := except_bind_ok.1 h
  obtain ⟨⟨b, bs2⟩, hb, h⟩ := except_bind_ok.1 h
  cases h
  obtain ⟨ha, rfl⟩ := readNat_eq_ok haddr
  obtain rfl := readByte_eq_ok hb
  exact ⟨addr, b, rfl, ha, by simp⟩

theorem readFLD_eq_ok (h : readFLD c op bs = .ok (i, rest)) :
    ∃ mode addr, i = .hostLd mode addr ∧ c.addrOk addr ∧ bs = writeMode mode ++ writeNat c.addrBits addr ++ rest := by
  obtain ⟨⟨mode, bs1⟩, hmode, h⟩ := except_bind_ok.1 h
  obtain ⟨⟨addr, bs2⟩, haddr, h⟩ := except_bind_ok.1 h
  cases h
  obtain rfl := readMode_eq_ok hmode
  obtain ⟨ha, rfl⟩ := readNat_eq_ok haddr
  exact ⟨mode, addr, rfl, ha, by simp⟩

theorem readFB8_eq_ok (h : readFB8 op bs = .ok (i, rest)) : ∃ b, i = .crcByte b ∧ bs = [b] ++ rest := by
  obtain ⟨⟨b, bs1⟩, hb, h⟩ := except_bind_ok.1 h
  cases h
  exact ⟨b, rfl, readByte_eq_ok hb⟩

theorem readFB91_eq_ok (h : readFB91 c op bs = .ok (i, rest)) :
    ∃ value width dst, i = .b91Enc value width dst ∧ (c.valueOk value ∧ c.addrOk dst) ∧
      bs = writeNat c.b91ValueBits value ++ [width] ++ writeNat c.addrBits dst ++ rest := by
  obtain ⟨⟨value, bs1⟩, hvalue, h⟩ := except_bind_ok.1 h
  obtain ⟨⟨width, bs2⟩, hwidth, h⟩ := except_bind_ok.1 h
  obtain ⟨⟨dst, bs3⟩, hdst, h⟩ := except_bind_ok.1 h
  cases h
  obtain ⟨hv, rfl⟩ := readNat_eq_ok hvalue
  obtain rfl := readByte_eq_ok hwidth
  obtain ⟨hd, rfl⟩ := readNat_eq_ok hdst
  exact ⟨value, width, dst, rfl, ⟨hv, hd⟩, by simp⟩

theorem readFFB_eq_ok (h : readFFB c op bs = .ok (i, rest)) :
    ∃ a, i = .fbBuild a ∧ a.WF c ∧ bs = operandBytes c (.fbBuild a) ++ rest := by
  obtain ⟨⟨dst, _⟩, hdst, h⟩ := except_bind_ok.1 h
  obtain ⟨⟨dcall, _⟩, hdcall, h⟩ := except_bind_ok.1 h
  obtain ⟨⟨dssid, _⟩, hdssid, h⟩ := except_bind_ok.1 h
  obtain ⟨⟨scall, _⟩, hscall, h⟩ := except_bind_ok.1 h
  obtain ⟨⟨sssid, _⟩, hsssid, h⟩ := except_bind_ok.1 h
  obtain ⟨⟨p1, _⟩, hp1, h⟩ := except_bind_ok.1 h
  obtain ⟨⟨p1call, _⟩, hp1call, h⟩ := except_bind_ok.1 h
  obtain ⟨⟨p1ttl, _⟩, hp1ttl, h⟩ := except_bind_ok.1 h
  obtain ⟨⟨p2, _⟩, hp2, h⟩ := except_bind_ok.1 h
  obtain ⟨⟨p2call, _⟩, hp2call, h⟩ := except_bind_ok.1 h
  obtain ⟨⟨p2ttl, _⟩, hp2ttl, h⟩ := except_bind_ok.1 h
  obtain ⟨⟨pmode, _⟩, hpmode, h⟩ := except_bind_ok.1 h
  obtain ⟨⟨paddr, _⟩, hpaddr, h⟩ := except_bind_ok.1 h
  obtain ⟨⟨plen, _⟩, hplen, h⟩ := except_bind_ok.1 h
  cases h
  obtain ⟨gdst, rfl⟩ := readNat_eq_ok hdst
  obtain ⟨gd, rfl⟩ := readCall_eq_ok hdcall
  obtain rfl := readByte_eq_ok hdssid
  obtain ⟨gs, rfl⟩ := readCall_eq_ok hscall
  obtain rfl := readByte_eq_ok hsssid
  obtain rfl := readOn_eq_ok hp1
  obtain ⟨g1, rfl⟩ := readCall_eq_ok hp1call
  obtain rfl := readByte_eq_ok hp1ttl
  obtain rfl := readOn_eq_ok hp2
  obtain ⟨g2, rfl⟩ := readCall_eq_ok hp2call
  obtain rfl := readByte_eq_ok hp2ttl
  obtain rfl := readMode_eq_ok hpmode
  obtain ⟨gpaddr, rfl⟩ := readNat_eq_ok hpaddr
  obtain ⟨gplen, rfl⟩ := readNat_eq_ok hplen
  exact ⟨_, rfl, ⟨gdst, gd, gs, g1, g2, gpaddr, gplen⟩, by simp [operandBytes]⟩

/-- An operation read from behind its own opcode byte and its own operand bytes is what the whole sequence encodes. -/
theorem isEncoding_of_operands (hop : op.toNat = (opcodeOf i).toNat) (hwf : i.WF c) (hbs : bs = operandBytes c i ++ rest) :
    i.WF c ∧ op :: bs = encode c i ++ rest := by
  obtain rfl := BitVec.eq_of_toNat_eq hop
  exact ⟨hwf, congrArg (opcodeOf i :: ·) hbs⟩

/-- The map's opcode bytes, each with its format's converse rule. -/
theorem decodeCommand_eq_ok (h : decodeCommand c op bs = .ok (i, rest)) : i.WF c ∧ op :: bs = encode c i ++ rest := by
  unfold decodeCommand at h
  split at h
  case h_3 hop =>
    obtain ⟨addr, b, rfl, hwf, hbs⟩ := readFST_eq_ok h
    exact isEncoding_of_operands hop (decide_eq_true hwf) hbs
  case h_4 hop =>
    obtain ⟨mode, addr, rfl, hwf, hbs⟩ := readFLD_eq_ok h
    exact isEncoding_of_operands hop (decide_eq_true hwf) hbs
  case h_6 hop | h_11 hop =>
    obtain ⟨mode, addr, len, rfl, hwf, hbs⟩ := readFSUB_eq_ok h
    exact isEncoding_of_operands hop (decide_eq_true hwf) hbs
  case h_7 hop | h_9 hop | h_13 hop =>
    obtain ⟨on, rfl, hbs⟩ := readFON_eq_ok h
    exact isEncoding_of_operands hop rfl hbs
  case h_16 hop =>
    obtain ⟨b, rfl, hbs⟩ := readFB8_eq_ok h
    exact isEncoding_of_operands hop rfl hbs
  case h_18 hop =>
    obtain ⟨a, rfl, hwf, hbs⟩ := readFFB_eq_ok h
    exact isEncoding_of_operands hop (decide_eq_true hwf) hbs
  case h_20 hop =>
    obtain ⟨value, width, dst, rfl, hwf, hbs⟩ := readFB91_eq_ok h
    exact isEncoding_of_operands hop (decide_eq_true hwf) hbs
  case h_21 => cases h
  all_goals
    next hop =>
      cases h
      exact isEncoding_of_operands hop rfl rfl

end Converse

/-- Settles O6: an opcode byte of the map, then its format's converse rule. -/
theorem decodedBytesAreTheEncoding : Obligations.DecodedBytesAreTheEncoding := by
  intro c bs i rest h
  cases bs with
  | nil => cases h
  | cons op bs => exact decodeCommand_eq_ok h

/-! ### Cut and malformed commands -/

theorem encode_take_succ (c : Config) (i : Instr) (n : Nat) :
    (encode c i).take (n + 1) = opcodeOf i :: (operandBytes c i).take n := rfl

/-- A read that goes on names no missing command unless one of its parts does. -/
theorem bind_ne_noCommand {α β : Type} {x : Except DecodeError α} {k : α → Except DecodeError β}
    (hx : x ≠ .error .noCommand) (hk : ∀ a, k a ≠ .error .noCommand) : (x >>= k) ≠ .error .noCommand := by
  cases x with
  | ok a => exact hk a
  | error e => exact fun h => hx (by rw [error_bind] at h; cases h; rfl)

section NoCommand

variable {op : Byte} {f : Field} {bs : List Byte}

theorem readNat_ne_noCommand {w : Nat} : readNat op f w bs ≠ .error .noCommand := by
  unfold readNat
  split
  · nofun
  · split <;> nofun

theorem readByte_ne_noCommand : readByte op f bs ≠ .error .noCommand := by
  cases bs <;> nofun

theorem readOn_ne_noCommand : readOn op f bs ≠ .error .noCommand :=
  bind_ne_noCommand readNat_ne_noCommand fun _ => nofun

theorem readMode_ne_noCommand : readMode op f bs ≠ .error .noCommand :=
  bind_ne_noCommand readNat_ne_noCommand fun _ => nofun

theorem readCall_ne_noCommand : readCall op f bs ≠ .error .noCommand := by
  unfold readCall
  split
  · split <;> nofun
  · nofun

theorem readFON_ne_noCommand {mk : Bool → Instr} : readFON op mk bs ≠ .error .noCommand :=
  bind_ne_noCommand readOn_ne_noCommand fun _ => nofun

theorem readFSUB_ne_noCommand {c : Config} {mk : Space → Nat → Nat → Instr} : readFSUB c op mk bs ≠ .error .noCommand :=
  bind_ne_noCommand readMode_ne_noCommand fun _ => bind_ne_noCommand readNat_ne_noCommand fun _ =>
    bind_ne_noCommand readNat_ne_noCommand fun _ => nofun

theorem readFST_ne_noCommand {c : Config} : readFST c op bs ≠ .error .noCommand :=
  bind_ne_noCommand readNat_ne_noCommand fun _ => bind_ne_noCommand readByte_ne_noCommand fun _ => nofun

theorem readFLD_ne_noCommand {c : Config} : readFLD c op bs ≠ .error .noCommand :=
  bind_ne_noCommand readMode_ne_noCommand fun _ => bind_ne_noCommand readNat_ne_noCommand fun _ => nofun

theorem readFB8_ne_noCommand : readFB8 op bs ≠ .error .noCommand :=
  bind_ne_noCommand readByte_ne_noCommand fun _ => nofun

theorem readFB91_ne_noCommand {c : Config} : readFB91 c op bs ≠ .error .noCommand :=
  bind_ne_noCommand readNat_ne_noCommand fun _ => bind_ne_noCommand readByte_ne_noCommand fun _ =>
    bind_ne_noCommand readNat_ne_noCommand fun _ => nofun

theorem readFFB_ne_noCommand {c : Config} : readFFB c op bs ≠ .error .noCommand :=
  bind_ne_noCommand readNat_ne_noCommand fun _ =>
    bind_ne_noCommand readCall_ne_noCommand fun _ => bind_ne_noCommand readByte_ne_noCommand fun _ =>
    bind_ne_noCommand readCall_ne_noCommand fun _ => bind_ne_noCommand readByte_ne_noCommand fun _ =>
    bind_ne_noCommand readOn_ne_noCommand fun _ =>
    bind_ne_noCommand readCall_ne_noCommand fun _ => bind_ne_noCommand readByte_ne_noCommand fun _ =>
    bind_ne_noCommand readOn_ne_noCommand fun _ =>
    bind_ne_noCommand readCall_ne_noCommand fun _ => bind_ne_noCommand readByte_ne_noCommand fun _ =>
    bind_ne_noCommand readMode_ne_noCommand fun _ =>
    bind_ne_noCommand readNat_ne_noCommand fun _ => bind_ne_noCommand readNat_ne_noCommand fun _ => nofun

theorem decodeCommand_ne_noCommand {c : Config} : decodeCommand c op bs ≠ .error .noCommand := by
  unfold decodeCommand
  split
  case h_3 => exact readFST_ne_noCommand
  case h_4 => exact readFLD_ne_noCommand
  case h_6 | h_11 => exact readFSUB_ne_noCommand
  case h_7 | h_9 | h_13 => exact readFON_ne_noCommand
  case h_16 => exact readFB8_ne_noCommand
  case h_18 => exact readFFB_ne_noCommand
  case h_20 => exact readFB91_ne_noCommand
  all_goals nofun

end NoCommand

/-- The host's decoder names a missing command on an empty stream only. -/
theorem decodeHost_eq_noCommand {c : Config} {bs : List Byte} : decodeHost c bs = .error .noCommand ↔ bs = [] := by
  cases bs with
  | nil => exact ⟨fun _ => rfl, fun _ => rfl⟩
  | cons op bs =>
    refine ⟨fun h => ?_, nofun⟩
    unfold decodeHost decode at h
    split at h
    · split at h <;> cases h
    · next he => cases h; exact absurd he decodeCommand_ne_noCommand

theorem hostTurn_of_badOperand {s : State} {op : Byte} {f : Field}
    (h : decodeHost s.cfg s.hostIn = .error (.badOperand op f)) : hostTurn s = .refused (.badOperand op f) := by
  rw [hostTurn, h]

/-- Settles O8: the host's turn hands on its decoder's refusal, and the rules of an operation's fields say what the decoder
does with a cut or a malformed one. -/
theorem malformedFieldsAreRefused : Obligations.MalformedFieldsAreRefused := by
  refine ⟨?_, ?_, ?_⟩
  · intro s u hturn
    rw [step_host hturn]
    exact ⟨decodeHost_eq_noCommand, fun _ => hostTurn_of_illegalOpcode, fun _ _ => hostTurn_of_badOperand⟩
  · intro c i n hwf _ hn hlen
    obtain ⟨m, rfl⟩ := Nat.exists_eq_add_of_le' hn
    obtain ⟨f, hf, hcut⟩ := (readsFields_operands hwf).cut m (Nat.lt_of_succ_lt_succ hlen)
    exact ⟨f, hf, decodeHost_of_decode_error (by rw [encode_take_succ]; exact hcut)⟩
  · intro c i f bad rest hwf _ hf hlen hbad
    rw [Nat.add_comm, encode_take_succ]
    exact decodeHost_of_decode_error ((readsFields_operands hwf).malformed f bad rest hf hlen hbad)

/-- Settles O9: each word is read by computation. -/
theorem specExampleWordsDecode : Obligations.SpecExampleWordsDecode := by
  refine ⟨rfl, rfl, rfl, rfl, rfl, rfl, rfl, rfl, rfl, rfl, rfl, rfl, rfl, rfl, rfl, rfl, rfl, rfl, rfl, rfl, rfl, rfl⟩

end Sys2Proof.Machine
end

section
/-! PROOFS of 46_system.md, 20_memory.md section 2, 41_rtty.md section 2 and 43_hdlc.md section 2: the host's commands that
read, store, submit, wait and write an enable, each by what its checks leave of it. -/

namespace Sys2Proof.Machine

/-! ### The meanings -/

section Meanings

variable (s : State)

theorem exec_tick : exec .tick s = execTick s := rfl
theorem exec_hostLd (mode : Space) (addr : Nat) : exec (.hostLd mode addr) s = execHostLd mode addr s := rfl
theorem exec_status : exec .status s = .next (respond s [statusWord s]) := rfl
theorem exec_rttySubmit (mode : Space) (addr len : Nat) :
    exec (.rttySubmit mode addr len) s = execRttySubmit mode addr len s := rfl
theorem exec_rttyEnable (on : Bool) : exec (.rttyEnable on) s = .next { s with rttyTxen := on } := rfl
theorem exec_rttyWait : exec .rttyWait s = execRttyWait s := rfl
theorem exec_rttyIrq (on : Bool) : exec (.rttyIrq on) s = .next { s with rttyIe := on } := rfl
theorem exec_afskSubmit (mode : Space) (addr len : Nat) :
    exec (.afskSubmit mode addr len) s = execAfskSubmit mode addr len s := rfl
theorem exec_afskWait : exec .afskWait s = execAfskWait s := rfl
theorem exec_afskIrq (on : Bool) : exec (.afskIrq on) s = .next { s with afskIe := on } := rfl
theorem exec_crcInit : exec .crcInit s = .next { s with crc := Config.crcInit } := rfl
theorem exec_crcByte (b : Byte) : exec (.crcByte b) s = .next { s with crc := crcUpdate s.crc b } := rfl
theorem exec_crcFcs : exec .crcFcs s = .next (respond s (fcsBytes s.crc)) := rfl
theorem exec_fbLen : exec .fbLen s = .next (respond s (toBytesBE (fieldBytes s.cfg.lenBits) s.fbLen)) := rfl

end Meanings

/-! ### Loads -/

section Loads

variable {s : State} {mode : Space} {addr : Nat}

theorem execHostLd_of_lt (h : addr < s.cfg.spaceSize) :
    execHostLd mode addr s = .next (respond s [Mem.read (spaceMem s mode) addr]) := by
  rw [execHostLd, fetch_of_lt h, andThen_next]

theorem execHostLd_of_read {b : Byte} (h : addr < s.cfg.spaceSize) (hb : Mem.read (spaceMem s mode) addr = b) :
    execHostLd mode addr s = .next (respond s [b]) := by
  rw [execHostLd_of_lt h, hb]

theorem execHostLd_of_ge (h : ¬ addr < s.cfg.spaceSize) : execHostLd mode addr s = .fault (.memRange mode addr) := by
  rw [execHostLd, fetch, memRead_of_ge h, andThen_fault]

end Loads

/-- Settles O15: a load of each space, by the byte it fetches. -/
theorem hostLoadReturnsByte : Obligations.HostLoadReturnsByte := by
  intro s addr h
  exact ⟨rfl, rfl, execHostLd_of_lt (mode := .data) h, execHostLd_of_lt (mode := .const) h⟩

/-- Settles O16: the loads after the store read DATA as the store left it, and CONST as it was. -/
theorem loadAfterStoreReturnsIt : Obligations.LoadAfterStoreReturnsIt := by
  intro s addr x b hwf ha hx ho
  refine ⟨_, execHostSt_of_unowned ho ha, ?same, ?other, execHostLd_of_lt (mode := .const) ha⟩
  case same => exact execHostLd_of_read (mode := .data) ha (Mem.read_write_same addr b hwf)
  case other =>
    intro hne
    exact execHostLd_of_read (mode := .data) hx (Mem.read_write_other b hwf hne)

/-! ### Outside the space -/

theorem memWrite_of_ge {s : State} {addr : Nat} {b : Byte} (h : ¬ addr < s.cfg.spaceSize) :
    memWrite s addr b = .fault (.memRange .data addr) := if_neg h

/-- Settles O18: each primitive's range check fails, and a decoded address fits its field. -/
theorem accessOutsideTheSpaceFaults : Obligations.AccessOutsideTheSpaceFaults := by
  intro s sp addr b hout
  have h : ¬ addr < s.cfg.spaceSize := Nat.not_lt.2 hout
  refine ⟨memRead_of_ge h, memRead_of_ge h, memWrite_of_ge h, execHostLd_of_ge h, ?store, ?decoded⟩
  case store =>
    intro ho
    rw [exec_hostSt, execHostSt, refuseOwned_of_unowned (unowned_one ho), memWrite_of_ge h]
  case decoded =>
    intro bytes rest
    constructor
    · intro hdec
      exact h (of_decide_eq_true (decodedBytesAreTheEncoding _ _ _ _ hdec).1)
    · intro hdec
      exact h (of_decide_eq_true (decodedBytesAreTheEncoding _ _ _ _ hdec).1)

/-! ### STATUS -/

/-- A bit put in place shows there and nowhere else. -/
theorem statusBit_getLsbD (on : Bool) {place i : Nat} (hi : i < 8) :
    (statusBit on place).getLsbD i = (on && decide (i = place)) := by
  cases on
  · simp [statusBit]
  · rw [statusBit, if_pos rfl, BitVec.getLsbD_shiftLeft, BitVec.getLsbD_one]
    rw [Bool.eq_iff_iff]
    simp [hi]
    omega

theorem statusWord_getLsbD (s : State) {i : Nat} (hi : i < 8) :
    (statusWord s).getLsbD i =
      (rttyBusy s && decide (i = 0) || afskBusy s && decide (i = 1) || s.rttyTxen && decide (i = 2) ||
        s.afskTxen && decide (i = 3) || s.rttyIe && decide (i = 4) || s.afskIe && decide (i = 5) ||
        s.fbTrunc && decide (i = 6)) := by
  simp only [statusWord, BitVec.getLsbD_or, statusBit_getLsbD _ hi]

/-- Settles O17: every bit of the word is the one bit put in its place. -/
theorem statusReportsEveryBit : Obligations.StatusReportsEveryBit := by
  intro s
  refine ⟨rfl, statusWord s, exec_status s, ?_⟩
  simp only [statusWord_getLsbD s (show 0 < 8 by decide), statusWord_getLsbD s (show 1 < 8 by decide),
    statusWord_getLsbD s (show 2 < 8 by decide), statusWord_getLsbD s (show 3 < 8 by decide),
    statusWord_getLsbD s (show 4 < 8 by decide), statusWord_getLsbD s (show 5 < 8 by decide),
    statusWord_getLsbD s (show 6 < 8 by decide), statusWord_getLsbD s (show 7 < 8 by decide)]
  simp

/-! ### Submissions, waits and enables -/

/-- Settles O24: the range check, then the hold, then the three registers. -/
theorem rttySubmitHandsOver : Obligations.RttySubmitHandsOver := by
  intro s mode addr len
  rw [exec_rttySubmit, execRttySubmit]
  refine ⟨requireRange_of_bad, ?busy, ?idle⟩
  case busy =>
    intro hr hb
    rw [requireRange_of_ok hr, if_pos (rttyBusy_iff.2 hb), hold]
  case idle =>
    intro hr hi
    rw [requireRange_of_ok hr, if_neg (by simpa using hi)]

/-- Settles O30: the range check, then the hold, then the five registers. -/
theorem afskSubmitHandsOver : Obligations.AfskSubmitHandsOver := by
  intro s mode addr len
  rw [exec_afskSubmit, execAfskSubmit]
  refine ⟨requireRange_of_bad, ?busy, ?idle⟩
  case busy =>
    intro hr hb
    rw [requireRange_of_ok hr, if_pos (afskBusy_iff.2 hb), hold]
  case idle =>
    intro hr hi
    rw [requireRange_of_ok hr, if_neg (by simpa using hi)]

section Waits

variable {s : State}

theorem execRttyWait_of_idle (h : s.rttyLen = 0) : execRttyWait s = .next s := by
  rw [execRttyWait, if_neg (by simpa using h)]

theorem execRttyWait_of_busy (h : s.rttyLen ≠ 0) : execRttyWait s = .next { s with hostHeld := true } := by
  rw [execRttyWait, if_pos (rttyBusy_iff.2 h), hold]

theorem execAfskWait_of_idle (h : s.afskLen = 0) : execAfskWait s = .next s := by
  rw [execAfskWait, if_neg (by simpa using h)]

theorem execAfskWait_of_busy (h : s.afskLen ≠ 0) : execAfskWait s = .next { s with hostHeld := true } := by
  rw [execAfskWait, if_pos (afskBusy_iff.2 h), hold]

end Waits

/-- Settles O25: both waits by their busy condition. -/
theorem waitsCompleteExactlyWhenIdle : Obligations.WaitsCompleteExactlyWhenIdle :=
  fun _ => ⟨execRttyWait_of_idle, execRttyWait_of_busy, execAfskWait_of_idle, execAfskWait_of_busy⟩

/-- Settles O26: the meanings of the three operations. -/
theorem enablesWriteTheirBit : Obligations.EnablesWriteTheirBit :=
  fun s on => ⟨exec_rttyEnable s on, exec_rttyIrq s on, exec_afskIrq s on⟩

/-! ### CRC.INIT, CRC.FCS and FB.LEN -/

theorem complement_low_toNat (crc : Word16) : (~~~(crc.setWidth 8)).toNat = 255 - crc.toNat % 256 := by
  rw [BitVec.toNat_not, BitVec.toNat_setWidth]

theorem complement_high_toNat (crc : Word16) :
    (~~~((crc >>> (8 : Nat)).setWidth 8)).toNat = 255 - crc.toNat / 256 := by
  have := crc.isLt
  rw [BitVec.toNat_not, BitVec.toNat_setWidth, BitVec.toNat_ushiftRight, Nat.shiftRight_eq_div_pow]
  omega

/-- Settles O43: the seed, and the two complemented bytes as numbers. -/
theorem crcInitAndFcs : Obligations.CrcInitAndFcs := by
  refine ⟨fun s => ⟨rfl, exec_crcInit s⟩, fun s => ⟨rfl, ?_⟩, rfl, rfl⟩
  exact ⟨_, _, exec_crcFcs s, complement_low_toNat s.crc, complement_high_toNat s.crc⟩

/-- Settles O51: the big-endian bytes of a length within its width read back as the length. -/
theorem fbLenReturnsLength : Obligations.FbLenReturnsLength := by
  refine ⟨?bytes, ?reset, ?ref⟩
  case bytes =>
    intro s hlen
    refine ⟨rfl, _, exec_fbLen s, toBytesBE_length _ _, ?_⟩
    have hfits : s.fbLen < 256 ^ fieldBytes s.cfg.lenBits := Nat.lt_of_lt_of_le hlen (two_pow_le_fieldBytes _)
    exact (ofBytesBE_toBytesBE _ _).trans (Nat.mod_eq_of_lt hfits)
  case reset =>
    intro s t h
    rw [exec_reset] at h
    cases h
    exact resetRegisters_fbLen s
  case ref =>
    intro s hcfg hlen
    have hbytes : toBytesBE (fieldBytes s.cfg.lenBits) s.fbLen = [0x00#8, 0x18#8] := by rw [hcfg, hlen]; rfl
    rw [exec_fbLen, hbytes, respond]

end Sys2Proof.Machine
end

section
/-! PROOFS of 40_symbol_clock.md section 2, 41_rtty.md section 3, 42_dds.md and 43_hdlc.md section 3: each way a tick goes as
an equation, the frame of each half, and that the two halves neither see nor disturb each other. -/

namespace Sys2Proof.Machine

/-! ### The RTTY half, way by way -/

section RttyHalf

variable {s t : State}

theorem rttyTickStep_off (h : s.rttyIe = false) : rttyTickStep s = .next s := by
  rw [rttyTickStep, h]; rfl

theorem rttyTickStep_count (h : s.rttyIe = true) (hk : s.rttyClk + 1 < s.cfg.nRtty) :
    rttyTickStep s = .next { s with rttyClk := s.rttyClk + 1 } := by
  rw [rttyTickStep, if_pos h, symClk_of_lt hk]

/-- A bit boundary runs the framing with the clock back at 0 (41_rtty.md R146). -/
theorem rttyTickStep_boundary (h : s.rttyIe = true) (hk : s.cfg.nRtty ≤ s.rttyClk + 1) :
    rttyTickStep s = rttyFrameBit { s with rttyClk := 0 } := by
  rw [rttyTickStep, if_pos h, symClk_of_not_lt (Nat.not_lt.2 hk)]

theorem rttyFrameBit_idle (hb : s.rttyBit = 0#4) (hl : s.rttyLen = 0) :
    rttyFrameBit s = .next { s with rttyLine := true } := by
  rw [rttyFrameBit, if_pos hb, if_pos hl]

theorem rttyFrameBit_start (hb : s.rttyBit = 0#4) (hl : s.rttyLen ≠ 0) (hp : s.rttyPtr < s.cfg.spaceSize) :
    rttyFrameBit s = .next { s with
      rttySr := Mem.read (spaceMem s s.rttyMode) s.rttyPtr
      rttyPtr := trunc s.cfg.addrBits (s.rttyPtr + 1)
      rttyLen := s.rttyLen - 1
      rttyLine := false
      rttyBit := 1#4 } := by
  rw [rttyFrameBit, if_pos hb, if_neg hl, rttyStart, fetch_of_lt hp, andThen_next, nextPtr]

theorem rttyFrameBit_data (hb : s.rttyBit ≠ 0#4) (h8 : s.rttyBit.toNat ≤ 8) : rttyFrameBit s = .next (rttyData s) := by
  rw [rttyFrameBit, if_neg hb]; exact if_pos h8

theorem rttyFrameBit_stop (h9 : 8 < s.rttyBit.toNat) : rttyFrameBit s = .next (rttyStop s) := by
  have hb : s.rttyBit ≠ 0#4 := by rintro h; simp [h] at h9
  rw [rttyFrameBit, if_neg hb]; exact if_neg (Nat.not_le.2 h9)

/-- Each of the six ways is one the RTTY half takes. -/
theorem rttyTickStep_of_ticked (h : RttyTicked s t) : rttyTickStep s = .next t := by
  cases h with
  | off h => exact rttyTickStep_off h
  | count h hk => exact rttyTickStep_count h hk
  | idle h hk hb hl => rw [rttyTickStep_boundary h hk]; exact rttyFrameBit_idle hb hl
  | start h hk hb hl hp => rw [rttyTickStep_boundary h hk]; exact rttyFrameBit_start hb hl hp
  | data h hk hb h8 => rw [rttyTickStep_boundary h hk]; exact rttyFrameBit_data hb h8
  | stop h hk h9 => rw [rttyTickStep_boundary h hk]; exact rttyFrameBit_stop h9

theorem rttyTickStep_eq_next : rttyTickStep s = .next t ↔ RttyTicked s t :=
  ⟨rttyTickStep_cases, rttyTickStep_of_ticked⟩

end RttyHalf

/-- Settles O27: the six ways of the RTTY half. -/
theorem rttyTickFraming : Obligations.RttyTickFraming := by
  intro s
  refine ⟨rttyTickStep_off, rttyTickStep_count, fun h hk => ?_⟩
  rw [exec_rttyTick, rttyTickStep_boundary h hk]
  refine ⟨fun hb hl => rttyFrameBit_idle hb hl, rttyFrameBit_start (s := { s with rttyClk := 0 }), ?data, ?stop⟩
  case data =>
    intro h1 h8
    have hb : s.rttyBit ≠ 0#4 := by rintro h0; simp [h0] at h1
    exact rttyFrameBit_data hb h8
  case stop =>
    intro h9
    exact rttyFrameBit_stop (by rw [h9]; decide)

/-! ### Runs of RTTY ticks -/

theorem repeatOp_rttyTick_count {s : State} (h : s.rttyIe = true) {k : Nat} (hk : s.rttyClk + k < s.cfg.nRtty) :
    repeatOp .rttyTick k s = .next { s with rttyClk := s.rttyClk + k } := by
  induction k with
  | zero => rfl
  | succ k ih =>
    rw [repeatOp_succ_last, ih (by omega), andThen_next]
    exact rttyTickStep_count h hk

theorem repeatOp_rttyTick_off {s : State} (h : s.rttyIe = false) (k : Nat) : repeatOp .rttyTick k s = .next s := by
  induction k with
  | zero => rfl
  | succ k ih =>
    rw [repeatOp_succ_last, ih, andThen_next]
    exact rttyTickStep_off h

/-- Settles O28: the counting ticks of a bit, the tick that ends it, and a masked framer. -/
theorem rttyBitLastsNTicks : Obligations.RttyBitLastsNTicks := by
  intro s k
  refine ⟨fun h hk => repeatOp_rttyTick_count h hk, ?boundary, fun h => repeatOp_rttyTick_off h k⟩
  case boundary =>
    intro h hclk hk
    obtain ⟨j, rfl⟩ : ∃ j, k = j + 1 := ⟨k - 1, by omega⟩
    have hlast : s.rttyClk + j = s.cfg.nRtty - 1 := by omega
    rw [repeatOp_succ_last, repeatOp_rttyTick_count h (by omega), andThen_next, hlast]

/-! ### The AFSK half, way by way -/

section AfskHalf

variable {s t : State}

theorem afskTickStep_off (h : s.afskIe = false) : afskTickStep s = .next s := by
  rw [afskTickStep, h]; rfl

/-- The bit sent decides the tone and the count of 1s, field by field (43_hdlc.md R179). -/
theorem emitBit_eq (s : State) :
    emitBit s = { s with
      hdlcSr := s.hdlcSr >>> (1 : Nat)
      ddsTone := if s.hdlcSr.getLsbD 0 then s.ddsTone else !s.ddsTone
      hdlcOnes := if s.hdlcSr.getLsbD 0 then (if s.hdlcStuff then s.hdlcOnes + 1#3 else s.hdlcOnes) else 0#3 } := by
  unfold emitBit
  cases s.hdlcSr.getLsbD 0 <;> rfl

theorem emitBit_of_zero {s : State} (h : s.hdlcSr.getLsbD 0 = false) :
    emitBit s = { s with hdlcSr := s.hdlcSr >>> (1 : Nat), ddsTone := !s.ddsTone, hdlcOnes := 0#3 } := by
  rw [emitBit, h]; rfl

/-- Each of the five ways is one the bit logic takes. -/
theorem hdlcBitStep_of_stepped (h : HdlcStepped s t) : hdlcBitStep s = .next t := by
  cases h with
  | stuffed h5 => exact hdlcBitStep_stuffed h5
  | shut h5 h7 hf hr => exact hdlcBitStep_shut h5 h7 hf hr
  | flag h5 h7 hf hr => exact hdlcBitStep_flag h5 h7 hf hr
  | content h5 h7 hf hp => exact hdlcBitStep_content h5 h7 hf hp
  | bit h5 h7 => exact hdlcBitStep_mid h5 h7

/-- Each of the three shapes is one the AFSK half takes. -/
theorem afskTickStep_of_ticked (h : AfskTicked s t) : afskTickStep s = .next t := by
  cases h with
  | off h => exact afskTickStep_off h
  | count h hk => exact afskTickStep_count h hk
  | boundary h hk t ht => rw [afskTickStep_boundary h hk, hdlcBitStep_of_stepped ht]

theorem afskTickStep_eq_next : afskTickStep s = .next t ↔ AfskTicked s t :=
  ⟨afskTickStep_cases, afskTickStep_of_ticked⟩

end AfskHalf

/-- Settles O31: a masked tick and a counting one. -/
theorem afskTickBetweenBoundaries : Obligations.AfskTickBetweenBoundaries :=
  fun _ => ⟨afskTickStep_off, afskTickStep_count⟩

/-- Settles O34: the stuffed 0 after the DDS part. -/
theorem stuffedZeroTakesABitPeriod : Obligations.StuffedZeroTakesABitPeriod := by
  intro s h hk h5
  rw [exec_afskTick, afskTickStep_boundary h hk]
  exact hdlcBitStep_stuffed (s := atBoundary s) h5

/-- Settles O35: an empty buffer makes the boundary a flag's, and the rest counter at 1 makes it the shutdown. -/
theorem byteBoundaryShutsDown : Obligations.ByteBoundaryShutsDown := by
  intro s h hk h5 h7 hr hl
  rw [exec_afskTick, afskTickStep_boundary h hk]
  exact hdlcBitStep_shut (s := atBoundary s) h5 h7 (flagDue_iff.2 (.inr hl)) hr

theorem flag_bit_zero : Config.flag.getLsbD 0 = false := by decide

/-- Settles O36: the flag's first bit is a 0. -/
theorem byteBoundaryLoadsFlag : Obligations.ByteBoundaryLoadsFlag := by
  intro s h hk h5 h7 hr hf
  have h1 : s.hdlcRest ≠ 1#8 := by rintro h1; simp [h1] at hr
  rw [exec_afskTick, afskTickStep_boundary h hk, hdlcBitStep_flag (s := atBoundary s) h5 h7 (flagDue_iff.2 hf) h1,
    emitBit_of_zero flag_bit_zero]
  have hshift : Config.flag >>> (1 : Nat) = 0x3F#8 := by decide
  simp [hshift]

/-- Settles O37: the content byte loaded, then its first bit. -/
theorem byteBoundaryFetchesContent : Obligations.ByteBoundaryFetchesContent := by
  intro s b h hk h5 h7 hr hl hp hb
  have hlast : (s.afskLen - 1 = 0) = (s.afskLen = 1) := propext (by omega)
  rw [exec_afskTick, afskTickStep_boundary h hk,
    hdlcBitStep_content (s := atBoundary s) h5 h7 (flagDue_eq_false.2 ⟨hr, hl⟩) hp, emitBit_eq, hb]
  simp only [ddsStep_afskLen, hlast]
  rfl

/-- Settles O38: the next bit of the byte in the shift register. -/
theorem midByteBitIsSent : Obligations.MidByteBitIsSent := by
  intro s h hk h5 h7
  rw [exec_afskTick, afskTickStep_boundary h hk, hdlcBitStep_mid (s := atBoundary s) h5 h7, emitBit_eq]
  rfl

/-! ### The DDS within a bit period -/

/-- The state after `k` counting ticks of the AFSK half, in closed form (42_dds.md R165). -/
def afterDdsSteps (s : State) (k : Nat) : State :=
  { s with
    afskClk := s.afskClk + k
    ddsPhase := trunc s.cfg.phaseBits (s.ddsPhase + k * ddsIncrement s.cfg s.ddsTone)
    afskSample :=
      if k = 0 then s.afskSample
      else waveSample s.cfg
        (ddsIndex s.cfg (trunc s.cfg.phaseBits (s.ddsPhase + (k - 1) * ddsIncrement s.cfg s.ddsTone))) }

theorem afterDdsSteps_zero {s : State} (h : s.ddsPhase < 2 ^ s.cfg.phaseBits) : afterDdsSteps s 0 = s := by
  have hphase : trunc s.cfg.phaseBits (s.ddsPhase + 0 * ddsIncrement s.cfg s.ddsTone) = s.ddsPhase := by
    rw [Nat.zero_mul, Nat.add_zero, trunc_of_lt h]
  rw [afterDdsSteps, hphase]
  rfl

theorem trunc_add_succ_mul (w p k d : Nat) : trunc w (trunc w (p + k * d) + d) = trunc w (p + (k + 1) * d) := by
  rw [trunc, trunc, trunc, Nat.mod_add_mod, Nat.succ_mul, Nat.add_assoc]

theorem afterDdsSteps_succ (s : State) (k : Nat) :
    { ddsStep (afterDdsSteps s k) with afskClk := s.afskClk + k + 1 } = afterDdsSteps s (k + 1) := by
  have hphase := trunc_add_succ_mul s.cfg.phaseBits s.ddsPhase k (ddsIncrement s.cfg s.ddsTone)
  rw [afterDdsSteps.eq_def s (k + 1), ← hphase]
  rfl

theorem repeatOp_afskTick_count {s : State} (hp : s.ddsPhase < 2 ^ s.cfg.phaseBits) (h : s.afskIe = true) {k : Nat}
    (hk : s.afskClk + k < s.cfg.nAfsk) : repeatOp .afskTick k s = .next (afterDdsSteps s k) := by
  induction k with
  | zero => rw [afterDdsSteps_zero hp]; rfl
  | succ k ih =>
    rw [repeatOp_succ_last, ih (by omega), andThen_next, ← afterDdsSteps_succ]
    exact afskTickStep_count (s := afterDdsSteps s k) h hk

/-- Settles O32: by induction on the ticks. -/
theorem ddsClosedForm : Obligations.DdsClosedForm :=
  fun _ _ hp h hk => repeatOp_afskTick_count hp h hk

/-! ### Frames -/

/-- The RTTY half leaves everything else alone, and of its own registers the gate, the enable and the mode. -/
theorem RttyTicked.frame {s t : State} (h : RttyTicked s t) :
    sameAfsk s t ∧ sameBuilder s t ∧ sameMemory s t ∧ sameAgents s t ∧
    t.rttyTxen = s.rttyTxen ∧ t.rttyIe = s.rttyIe ∧ t.rttyMode = s.rttyMode := by
  cases h with
  | off | count | idle | start | data | stop => simp [sameAfsk, sameBuilder, sameMemory, sameAgents]

/-- The bit logic leaves everything but the AFSK transmitter alone, and of that the mode. -/
theorem HdlcStepped.frame {s t : State} (h : HdlcStepped s t) :
    sameRtty s t ∧ sameBuilder s t ∧ sameMemory s t ∧ sameAgents s t ∧ t.afskMode = s.afskMode := by
  cases h with
  | stuffed | shut | flag | content | bit => simp [sameRtty, sameBuilder, sameMemory, sameAgents]

theorem AfskTicked.frame {s t : State} (h : AfskTicked s t) :
    sameRtty s t ∧ sameBuilder s t ∧ sameMemory s t ∧ sameAgents s t ∧ t.afskMode = s.afskMode := by
  cases h with
  | off | count => simp [sameRtty, sameBuilder, sameMemory, sameAgents]
  | boundary _ _ _ hs => exact hs.frame

/-- Settles O22: the frames of the two halves. -/
theorem tickHalvesShareNothing : Obligations.TickHalvesShareNothing :=
  ⟨fun _ _ h => (rttyTickStep_cases h).frame, fun _ _ h => (afskTickStep_cases h).frame⟩

/-! ### Agreement of states, by unit -/

section Agreement

variable {s t u : State}

theorem sameRtty_symm (h : sameRtty s t) : sameRtty t s := by simp_all [sameRtty]
theorem sameRtty_trans (h : sameRtty s t) (g : sameRtty t u) : sameRtty s u := by simp_all [sameRtty]
theorem sameAfsk_symm (h : sameAfsk s t) : sameAfsk t s := by simp_all [sameAfsk]
theorem sameAfsk_trans (h : sameAfsk s t) (g : sameAfsk t u) : sameAfsk s u := by simp_all [sameAfsk]
theorem sameBuilder_trans (h : sameBuilder s t) (g : sameBuilder t u) : sameBuilder s u := by simp_all [sameBuilder]
theorem sameMemory_symm (h : sameMemory s t) : sameMemory t s := by simp_all [sameMemory]
theorem sameMemory_trans (h : sameMemory s t) (g : sameMemory t u) : sameMemory s u := by simp_all [sameMemory]
theorem sameAgents_trans (h : sameAgents s t) (g : sameAgents t u) : sameAgents s u := by simp_all [sameAgents]

/-- The units are the whole state. -/
theorem eq_of_same (hr : sameRtty s t) (ha : sameAfsk s t) (hb : sameBuilder s t) (hm : sameMemory s t)
    (hg : sameAgents s t) : t = s := by
  cases s
  cases t
  simp_all [sameRtty, sameAfsk, sameBuilder, sameMemory, sameAgents]

end Agreement

/-! ### One transmitter put beside another machine -/

/-- `u` with the RTTY transmitter, the memories and the configuration of `s`. -/
def graftRtty (s u : State) : State :=
  { u with
    rttyPtr := s.rttyPtr
    rttyLen := s.rttyLen
    rttyMode := s.rttyMode
    rttyClk := s.rttyClk
    rttyBit := s.rttyBit
    rttySr := s.rttySr
    rttyLine := s.rttyLine
    rttyTxen := s.rttyTxen
    rttyIe := s.rttyIe
    dataMem := s.dataMem
    constMem := s.constMem
    cfg := s.cfg }

/-- `u` with the AFSK transmitter, the memories and the configuration of `s`. -/
def graftAfsk (s u : State) : State :=
  { u with
    afskPtr := s.afskPtr
    afskLen := s.afskLen
    afskMode := s.afskMode
    afskClk := s.afskClk
    ddsPhase := s.ddsPhase
    ddsTone := s.ddsTone
    afskSample := s.afskSample
    hdlcSr := s.hdlcSr
    hdlcBit := s.hdlcBit
    hdlcOnes := s.hdlcOnes
    hdlcStuff := s.hdlcStuff
    hdlcRest := s.hdlcRest
    afskTxen := s.afskTxen
    afskIe := s.afskIe
    dataMem := s.dataMem
    constMem := s.constMem
    cfg := s.cfg }

section Graft

variable {s t u : State}

theorem graftRtty_eq (hr : sameRtty u s) (hm : sameMemory u s) : graftRtty s u = u :=
  eq_of_same hr (by simp [sameAfsk, graftRtty]) (by simp [sameBuilder, graftRtty]) hm (by simp [sameAgents, graftRtty])

theorem graftAfsk_eq (ha : sameAfsk u s) (hm : sameMemory u s) : graftAfsk s u = u :=
  eq_of_same (by simp [sameRtty, graftAfsk]) ha (by simp [sameBuilder, graftAfsk]) hm (by simp [sameAgents, graftAfsk])

/-- The RTTY half does the same to a transmitter whatever stands beside it. -/
theorem RttyTicked.graft (h : RttyTicked s t) (u : State) : RttyTicked (graftRtty s u) (graftRtty t u) := by
  cases h with
  | off h => exact .off h
  | count h hk => exact .count (s := graftRtty s u) h hk
  | idle h hk hb hl => exact .idle (s := graftRtty s u) h hk hb hl
  | start h hk hb hl hp => exact .start (s := graftRtty s u) h hk hb hl hp
  | data h hk hb h8 => exact .data (s := graftRtty s u) h hk hb h8
  | stop h hk h9 => exact .stop (s := graftRtty s u) h hk h9

theorem graftAfsk_emitBit : graftAfsk (emitBit s) u = emitBit (graftAfsk s u) := by
  rw [emitBit_eq, emitBit_eq]; rfl

/-- The bit logic does the same to a transmitter whatever stands beside it. -/
theorem HdlcStepped.graft (h : HdlcStepped s t) (u : State) : HdlcStepped (graftAfsk s u) (graftAfsk t u) := by
  cases h with
  | stuffed h5 => exact .stuffed (s := graftAfsk s u) h5
  | shut h5 h7 hf hr => exact .shut (s := graftAfsk s u) h5 h7 hf hr
  | flag h5 h7 hf hr => rw [graftAfsk_emitBit]; exact .flag (s := graftAfsk s u) h5 h7 hf hr
  | content h5 h7 hf hp => rw [graftAfsk_emitBit]; exact .content (s := graftAfsk s u) h5 h7 hf hp
  | bit h5 h7 => rw [graftAfsk_emitBit]; exact .bit (s := graftAfsk s u) h5 h7

/-- The AFSK half does the same to a transmitter whatever stands beside it. -/
theorem AfskTicked.graft (h : AfskTicked s t) (u : State) : AfskTicked (graftAfsk s u) (graftAfsk t u) := by
  cases h with
  | off h => exact .off h
  | count h hk => exact .count (s := graftAfsk s u) h hk
  | boundary h hk t ht => exact .boundary (s := graftAfsk s u) h hk _ (ht.graft u)

end Graft

/-! ### The two halves together -/

theorem exec_tick_eq_next {s t : State} : exec .tick s = .next t ↔ ∃ u, RttyTicked s u ∧ AfskTicked u t := by
  simp only [exec_tick, execTick, andThen_eq_next, rttyTickStep_eq_next, afskTickStep_eq_next]

theorem rttyTicked_unique {s t u : State} (ht : RttyTicked s t) (hu : RttyTicked s u) : t = u :=
  Host.Outcome.next.inj ((rttyTickStep_of_ticked ht).symm.trans (rttyTickStep_of_ticked hu))

theorem afskTicked_unique {s t u : State} (ht : AfskTicked s t) (hu : AfskTicked s u) : t = u :=
  Host.Outcome.next.inj ((afskTickStep_of_ticked ht).symm.trans (afskTickStep_of_ticked hu))

/-- The halves commute: each is done to the registers it finds, and the other half does not touch them. -/
theorem ticked_swap {s u t : State} (hr : RttyTicked s u) (ha : AfskTicked u t) :
    ∃ v, AfskTicked s v ∧ RttyTicked v t := by
  obtain ⟨ra, rb, rm, rg, -⟩ := hr.frame
  obtain ⟨ar, ab, am, ag, -⟩ := ha.frame
  have hv : AfskTicked s (graftAfsk t s) := graftAfsk_eq ra rm ▸ ha.graft s
  obtain ⟨vr, -, vm, -, -⟩ := hv.frame
  have ht : RttyTicked (graftAfsk t s) (graftRtty u (graftAfsk t s)) :=
    graftRtty_eq (sameRtty_symm vr) (sameMemory_symm vm) ▸ hr.graft (graftAfsk t s)
  have hend : graftRtty u (graftAfsk t s) = t := by
    refine (eq_of_same ?_ ?_ ?_ ?_ ?_).symm
    · exact ar
    · simp [sameAfsk, graftRtty, graftAfsk]
    · exact sameBuilder_trans rb ab
    · exact am
    · exact sameAgents_trans rg ag
  exact ⟨_, hv, hend ▸ ht⟩

/-- Settles O21: the definition, the exchange of the halves, and the two masked halves. -/
theorem tickRunsBothHalvesInAnyOrder : Obligations.TickRunsBothHalvesInAnyOrder := by
  intro s
  refine ⟨rfl, ?swapped, ?masked⟩
  case swapped =>
    intro t h
    obtain ⟨u, hr, ha⟩ := exec_tick_eq_next.1 h
    obtain ⟨v, hv, ht⟩ := ticked_swap hr ha
    exact andThen_eq_next.2 ⟨v, afskTickStep_of_ticked hv, rttyTickStep_of_ticked ht⟩
  case masked =>
    intro hrtty hafsk
    exact exec_tick_eq_next.2 ⟨s, .off hrtty, .off hafsk⟩

/-- Settles O23: a transmitter grafted beside the other machine is that machine's own where the two agree. -/
theorem transmittersDoNotInterfere : Obligations.TransmittersDoNotInterfere := by
  intro s u s' u' hm hs hu
  obtain ⟨a, hsa, has'⟩ := exec_tick_eq_next.1 hs
  obtain ⟨b, hub, hbu'⟩ := exec_tick_eq_next.1 hu
  obtain ⟨sa, -, sm, -⟩ := hsa.frame
  obtain ⟨ua, -, um, -⟩ := hub.frame
  constructor
  · intro hr
    have hb : RttyTicked u (graftRtty a u) := graftRtty_eq (sameRtty_symm hr) (sameMemory_symm hm) ▸ hsa.graft u
    have hab : sameRtty a b := by
      rw [rttyTicked_unique hub hb]
      simp [sameRtty, graftRtty]
    exact sameRtty_trans (sameRtty_symm has'.frame.1) (sameRtty_trans hab hbu'.frame.1)
  · intro ha
    have hab : sameAfsk a b := sameAfsk_trans (sameAfsk_symm sa) (sameAfsk_trans ha ua)
    have hmab : sameMemory a b := sameMemory_trans (sameMemory_symm sm) (sameMemory_trans hm um)
    have hend : AfskTicked b (graftAfsk s' b) := graftAfsk_eq (sameAfsk_symm hab) (sameMemory_symm hmab) ▸ has'.graft b
    rw [afskTicked_unique hbu' hend]
    simp [sameAfsk, graftAfsk]

end Sys2Proof.Machine
end

section
/-! PROOFS of the rules over all operations (10_state.md R53, 20_memory.md R61, R74, R76, 41_rtty.md R142, 42_dds.md R164,
43_hdlc.md R171, 46_system.md R244): one inversion of `exec`, the frame of every command of the host, and what follows. -/

namespace Sys2Proof.Machine

/-! ### Everything an operation can do -/

/-- What an operation that goes on did to the state. -/
inductive Ran (s : State) : Instr → State → Prop where
  | reset : Ran s .reset (resetRegisters s)
  | tick (u t : State) (hr : RttyTicked s u) (ha : AfskTicked u t) : Ran s .tick t
  | rttyTick (t : State) (h : RttyTicked s t) : Ran s .rttyTick t
  | afskTick (t : State) (h : AfskTicked s t) : Ran s .afskTick t
  /-- A wait of an idle transmitter. -/
  | waited (i : Instr) (hi : i.agent = .host) : Ran s i s
  /-- A wait for, or a submission to, a busy transmitter. -/
  | held (i : Instr) (hi : i.agent = .host) : Ran s i { s with hostHeld := true }
  /-- An operation that only returns a result. -/
  | responded (i : Instr) (hi : i.agent = .host) (bs : List Byte) : Ran s i (respond s bs)
  | rttySubmit (mode : Space) (addr len : Nat) (hr : rangeOk s.cfg addr len) (hl : s.rttyLen = 0) :
      Ran s (.rttySubmit mode addr len) { s with rttyPtr := addr, rttyLen := len, rttyMode := mode }
  | rttyEnable (on : Bool) : Ran s (.rttyEnable on) { s with rttyTxen := on }
  | rttyIrq (on : Bool) : Ran s (.rttyIrq on) { s with rttyIe := on }
  | afskSubmit (mode : Space) (addr len : Nat) (hr : rangeOk s.cfg addr len) (hl : s.afskLen = 0) :
      Ran s (.afskSubmit mode addr len)
        { s with afskPtr := addr, afskLen := len, afskMode := mode, afskTxen := true, afskIe := true }
  | afskIrq (on : Bool) : Ran s (.afskIrq on) { s with afskIe := on }
  /-- A step of the CRC unit. -/
  | crc (i : Instr) (hi : i.agent = .host) (c : Word16) : Ran s i { s with crc := c }
  | hostSt (addr : Nat) (b : Byte) (ho : owned s addr = false) (ha : addr < s.cfg.spaceSize) :
      Ran s (.hostSt addr b) { s with dataMem := Mem.write s.dataMem addr b }
  | fbBuild (a : BuildArgs) (u : State) (payload : List Byte) (hd : a.dcall.WF) (hs : a.scall.WF) (h1 : a.p1call.WF)
      (h2 : a.p2call.WF) (hu : writeRange s a.dst (frameBytes s.cfg a payload) = .next u) :
      Ran s (.fbBuild a) { u with
        crc := frameCrc s.cfg a payload
        fbLen := (frameBytes s.cfg a payload).length
        fbTrunc := frameTrunc s.cfg a payload }
  | b91Enc (value : Nat) (width : Byte) (dst : Nat) (t : State) (h : writeRange s dst (b91 value width.toNat) = .next t) :
      Ran s (.b91Enc value width dst) t

/-- Everything an operation can do, if it goes on. -/
theorem exec_ran {i : Instr} {s t : State} (h : exec i s = .next t) : Ran s i t := by
  cases i with
  | reset => cases h; exact .reset
  | tick =>
    obtain ⟨u, hr, ha⟩ := exec_tick_eq_next.1 h
    exact .tick u t hr ha
  | rttyTick => exact .rttyTick t (rttyTickStep_cases h)
  | afskTick => exact .afskTick t (afskTickStep_cases h)
  | hostSt addr b =>
    obtain ⟨ho, ha, rfl⟩ := execHostSt_cases h
    exact .hostSt addr b ho ha
  | hostLd mode addr =>
    obtain ⟨b, -, h⟩ := andThen_eq_next.1 h
    cases h
    exact .responded _ rfl [b]
  | status => cases h; exact .responded _ rfl _
  | crcFcs => cases h; exact .responded _ rfl _
  | fbLen => cases h; exact .responded _ rfl _
  | rttyWait =>
    rw [exec_rttyWait, execRttyWait] at h
    split at h <;> cases h
    · exact .held _ rfl
    · exact .waited _ rfl
  | afskWait =>
    rw [exec_afskWait, execAfskWait] at h
    split at h <;> cases h
    · exact .held _ rfl
    · exact .waited _ rfl
  | rttySubmit mode addr len =>
    obtain ⟨hr, ⟨-, rfl⟩ | ⟨hl, rfl⟩⟩ := execRttySubmit_cases h
    · exact .held _ rfl
    · exact .rttySubmit mode addr len hr hl
  | afskSubmit mode addr len =>
    obtain ⟨hr, ⟨-, rfl⟩ | ⟨hl, rfl⟩⟩ := execAfskSubmit_cases h
    · exact .held _ rfl
    · exact .afskSubmit mode addr len hr hl
  | rttyEnable on => cases h; exact .rttyEnable on
  | rttyIrq on => cases h; exact .rttyIrq on
  | afskIrq on => cases h; exact .afskIrq on
  | crcInit => cases h; exact .crc _ rfl _
  | crcByte b => cases h; exact .crc _ rfl _
  | fbBuild a =>
    obtain ⟨hd, hs, h1, h2, -, -, u, hu, rfl⟩ := execFbBuild_cases h
    exact .fbBuild a u _ hd hs h1 h2 hu
  | b91Enc value width dst => exact .b91Enc value width dst t (requireRange_eq_next.1 h).2

/-- A command of the host other than RESET writes descriptors, gates and enables, the builder and DATA, and nothing else of
the machine. -/
theorem Ran.host_frame {i : Instr} {s t : State} (h : Ran s i t) (hi : i.agent = .host) (hreset : i ≠ .reset) :
    t = { s with
      rttyPtr := t.rttyPtr
      rttyLen := t.rttyLen
      rttyMode := t.rttyMode
      rttyTxen := t.rttyTxen
      rttyIe := t.rttyIe
      afskPtr := t.afskPtr
      afskLen := t.afskLen
      afskMode := t.afskMode
      afskTxen := t.afskTxen
      afskIe := t.afskIe
      crc := t.crc
      fbLen := t.fbLen
      fbTrunc := t.fbTrunc
      dataMem := t.dataMem
      hostOut := t.hostOut
      hostHeld := t.hostHeld } := by
  cases h with
  | reset => exact absurd rfl hreset
  | tick | rttyTick | afskTick => cases hi
  | fbBuild a u payload hd hs h1 h2 hu => rw [writeRange_frame hu]
  | b91Enc value width dst t h => rw [writeRange_frame h]
  | waited | held | responded | rttySubmit | rttyEnable | rttyIrq | afskSubmit | afskIrq | crc | hostSt => rfl

/-- Settles O58: none of these registers is in the frame of a command. -/
theorem hostCannotTouchSequencers : Obligations.HostCannotTouchSequencers := by
  intro i s t hi hreset h
  rw [(exec_ran h).host_frame hi hreset]
  simp only [and_self]

/-- Settles O56: a submission that goes on found its transmitter idle, and nothing else writes a descriptor. -/
theorem busyDescriptorIsNeverOverwritten : Obligations.BusyDescriptorIsNeverOverwritten := by
  intro i s t hi hreset h
  cases exec_ran h with
  | reset => exact absurd rfl hreset
  | tick | rttyTick | afskTick => cases hi
  | rttySubmit mode addr len _ hl => exact ⟨fun hb => absurd hl hb, fun _ => ⟨rfl, rfl, rfl⟩⟩
  | afskSubmit mode addr len _ hl => exact ⟨fun _ => ⟨rfl, rfl, rfl⟩, fun hb => absurd hl hb⟩
  | fbBuild a u payload _ _ _ _ hu => rw [writeRange_frame hu]; exact ⟨fun _ => ⟨rfl, rfl, rfl⟩, fun _ => ⟨rfl, rfl, rfl⟩⟩
  | b91Enc value width dst _ hu => rw [writeRange_frame hu]; exact ⟨fun _ => ⟨rfl, rfl, rfl⟩, fun _ => ⟨rfl, rfl, rfl⟩⟩
  | waited | held | responded | rttyEnable | rttyIrq | afskIrq | crc | hostSt =>
    exact ⟨fun _ => ⟨rfl, rfl, rfl⟩, fun _ => ⟨rfl, rfl, rfl⟩⟩

/-! ### Memory -/

theorem sameMemory_of_ticked {s u t : State} (hr : RttyTicked s u) (ha : AfskTicked u t) : sameMemory s t :=
  sameMemory_trans hr.frame.2.2.1 ha.frame.2.2.1

/-- Settles O57: the stores leave CONST and the configuration, every other operation DATA too. -/
theorem onlyStoresChangeData : Obligations.OnlyStoresChangeData := by
  intro i s t h
  cases exec_ran h with
  | tick u _ hr ha =>
    obtain ⟨hd, hk, hc⟩ := sameMemory_of_ticked hr ha
    exact ⟨hk, hc, fun _ _ _ => hd⟩
  | rttyTick _ hr =>
    obtain ⟨-, -, ⟨hd, hk, hc⟩, -⟩ := hr.frame
    exact ⟨hk, hc, fun _ _ _ => hd⟩
  | afskTick _ ha =>
    obtain ⟨-, -, ⟨hd, hk, hc⟩, -⟩ := ha.frame
    exact ⟨hk, hc, fun _ _ _ => hd⟩
  | hostSt addr b => exact ⟨rfl, rfl, fun hne _ _ => absurd rfl (hne addr b)⟩
  | fbBuild a u payload _ _ _ _ hu =>
    rw [writeRange_frame hu]
    exact ⟨rfl, rfl, fun _ hne _ => absurd rfl (hne a)⟩
  | b91Enc value width dst _ hu =>
    rw [writeRange_frame hu]
    exact ⟨rfl, rfl, fun _ _ hne => absurd rfl (hne value width dst)⟩
  | reset | waited | held | responded | rttySubmit | rttyEnable | rttyIrq | afskSubmit | afskIrq | crc =>
    exact ⟨rfl, rfl, fun _ _ _ => rfl⟩

/-- A checked write leaves an owned byte as it was. -/
theorem writeRange_read_owned {s t : State} {addr x : Nat} {bs : List Byte} (hwf : Mem.wf s.dataMem = true)
    (h : writeRange s addr bs = .next t) (ho : owned s x = true) : Mem.read t.dataMem x = Mem.read s.dataMem x := by
  obtain ⟨hu, hw⟩ := writeRange_spec hwf h
  rw [hw.read x, if_neg]
  rintro ⟨hlo, hhi⟩
  rw [hu x hlo hhi] at ho
  cases ho

/-- Settles O55: a store, checked, writes no owned byte, and no other operation writes DATA. -/
theorem ownedBytesNeverChange : Obligations.OwnedBytesNeverChange := by
  intro i s t x hwf ho h
  cases exec_ran h with
  | tick u _ hr ha => rw [(sameMemory_of_ticked hr ha).1]
  | rttyTick _ hr => rw [hr.frame.2.2.1.1]
  | afskTick _ ha => rw [ha.frame.2.2.1.1]
  | hostSt addr b hu =>
    have hne : x ≠ addr := by rintro rfl; rw [hu] at ho; cases ho
    exact Mem.read_write_other b hwf hne
  | fbBuild a u payload _ _ _ _ hu => exact writeRange_read_owned (t := u) hwf hu ho
  | b91Enc value width dst _ hu => exact writeRange_read_owned hwf hu ho
  | reset | waited | held | responded | rttySubmit | rttyEnable | rttyIrq | afskSubmit | afskIrq | crc => rfl

/-! ### The phase -/

/-- The bit logic leaves the phase as it stands, but for the shutdown. -/
theorem HdlcStepped.phase {s t : State} (h : HdlcStepped s t) :
    t.ddsPhase = s.ddsPhase ∨ t.ddsPhase = 0 ∧ t.afskTxen = false ∧ t.afskIe = false := by
  cases h with
  | shut => exact .inr ⟨rfl, rfl, rfl⟩
  | stuffed | flag | content | bit => left; simp

/-- What the AFSK half can do to the phase (42_dds.md R164). -/
theorem AfskTicked.phase {s t : State} (h : AfskTicked s t) :
    t.ddsPhase = s.ddsPhase ∨
    (s.afskIe = true ∧ t.ddsPhase = trunc s.cfg.phaseBits (s.ddsPhase + ddsIncrement s.cfg s.ddsTone)) ∨
    (s.afskIe = true ∧ t.ddsPhase = 0 ∧ t.afskTxen = false ∧ t.afskIe = false) := by
  cases h with
  | off => exact .inl rfl
  | count hie => exact .inr (.inl ⟨hie, rfl⟩)
  | boundary hie _ _ hs =>
    rcases hs.phase with hp | hp
    · exact .inr (.inl ⟨hie, hp⟩)
    · exact .inr (.inr ⟨hie, hp⟩)

/-- Settles O33: the AFSK half is alone in writing the phase. -/
theorem phaseIsContinuous : Obligations.PhaseIsContinuous := by
  intro i s t hreset h
  cases exec_ran h with
  | reset => exact absurd rfl hreset
  | rttyTick _ hr =>
    obtain ⟨⟨-, -, -, -, hp, -⟩, -⟩ := hr.frame
    exact .inl hp
  | afskTick _ ha => exact ha.phase
  | tick u _ hr ha =>
    obtain ⟨⟨-, -, -, -, hp, htone, -, -, -, -, -, -, -, hie⟩, -, ⟨-, -, hc⟩, -⟩ := hr.frame
    have := ha.phase
    rw [hp, htone, hie, hc] at this
    exact this
  | fbBuild a u payload _ _ _ _ hu => rw [writeRange_frame hu]; exact .inl rfl
  | b91Enc value width dst _ hu => rw [writeRange_frame hu]; exact .inl rfl
  | waited | held | responded | rttySubmit | rttyEnable | rttyIrq | afskSubmit | afskIrq | crc | hostSt => exact .inl rfl

/-! ### Masked and idle -/

/-- A bit boundary leaves the AFSK tick masked at the shutdown only, which leaves the idle values. -/
theorem HdlcStepped.idle_of_masked {s t : State} (h : HdlcStepped s t) (hie : s.afskIe = true) (ht : t.afskIe = false) :
    t.AfskIdle := by
  cases h with
  | shut => exact ⟨rfl, rfl, rfl, rfl, rfl, rfl, rfl⟩
  | stuffed | flag | content | bit => simp [hie] at ht

theorem AfskTicked.idle_of_masked {s t : State} (h : AfskTicked s t) (hs : s.afskIe = false → s.AfskIdle)
    (ht : t.afskIe = false) : t.AfskIdle := by
  cases h with
  | off hie => exact hs hie
  | count hie => simp [hie] at ht
  | boundary hie _ _ hb => exact hb.idle_of_masked hie ht

/-- The idle values pass between states that agree on the AFSK transmitter and the configuration. -/
theorem AfskIdle_of_same {s t : State} (ha : sameAfsk s t) (hc : t.cfg = s.cfg) (h : s.AfskIdle) : t.AfskIdle := by
  simp_all [sameAfsk, State.AfskIdle]

/-- Settles O4: only a tick's shutdown and RESET mask the AFSK transmitter but for the command left out, and both leave it
idle. -/
theorem maskedMeansIdleUnlessHostMasks : Obligations.MaskedMeansIdleUnlessHostMasks := by
  intro i s t hi hs h ht
  cases exec_ran h with
  | reset => exact ⟨rfl, rfl, rfl, rfl, rfl, rfl, rfl⟩
  | tick u _ hr ha =>
    obtain ⟨hafsk, -, ⟨-, -, hc⟩, -⟩ := hr.frame
    obtain ⟨-, -, -, -, -, -, -, -, -, -, -, -, -, hie⟩ := hafsk
    exact ha.idle_of_masked (fun hu => AfskIdle_of_same hr.frame.1 hc (hs (hie ▸ hu))) ht
  | rttyTick _ hr =>
    obtain ⟨hafsk, -, ⟨-, -, hc⟩, -⟩ := hr.frame
    obtain ⟨-, -, -, -, -, -, -, -, -, -, -, -, -, hie⟩ := hafsk
    exact AfskIdle_of_same hr.frame.1 hc (hs (hie ▸ ht))
  | afskTick _ ha => exact ha.idle_of_masked hs ht
  | afskSubmit => cases ht
  | afskIrq on =>
    obtain rfl : on = false := ht
    exact absurd rfl hi
  | fbBuild a u payload _ _ _ _ hu => rw [writeRange_frame hu] at ht ⊢; exact hs ht
  | b91Enc value width dst _ hu => rw [writeRange_frame hu] at ht ⊢; exact hs ht
  | waited | held | responded | rttySubmit | rttyEnable | rttyIrq | crc | hostSt => exact hs ht

end Sys2Proof.Machine
end

section
/-! PROOFS of 70_reset_and_hazards.md R281: two states that agree but for registers not yet written run every operation to
outcomes that agree likewise, one shared operation after another. -/

namespace Sys2Proof.Machine

/-! ### Outcomes that agree -/

/-- The same kind of outcome, with the same reason or with next states that agree. -/
inductive OutcomesAgree : Res State → Res State → Prop where
  | next {s t : State} (h : AgreeWhereWritten s t) : OutcomesAgree (.next s) (.next t)
  | fault (f : Fault) : OutcomesAgree (.fault f) (.fault f)
  | refused (r : Refusal) : OutcomesAgree (.refused r) (.refused r)

theorem OutcomesAgree.andThen {r r' : Res State} {f g : State → Res State} (h : OutcomesAgree r r')
    (hf : ∀ s t, AgreeWhereWritten s t → OutcomesAgree (f s) (g t)) : OutcomesAgree (r.andThen f) (r'.andThen g) := by
  cases h with
  | next h => exact hf _ _ h
  | fault e => exact .fault e
  | refused e => exact .refused e

theorem OutcomesAgree.requireRange {c : Config} {op : Byte} {f : Field} {addr n : Nat} {r r' : Res State}
    (h : OutcomesAgree r r') : OutcomesAgree (requireRange c op f addr n r) (requireRange c op f addr n r') := by
  unfold Machine.requireRange
  split
  · exact h
  · exact .refused _

theorem OutcomesAgree.requireCall {op : Byte} {f : Field} {call : Call} {r r' : Res State} (h : OutcomesAgree r r') :
    OutcomesAgree (requireCall op f call r) (requireCall op f call r') := by
  unfold Machine.requireCall
  split
  · exact h
  · exact .refused _

/-- The state with other values in the registers a transmitter may not have written yet. -/
abbrev withUnwritten (s : State) (rptr : Nat) (rmode : Space) (rsr : Byte) (aptr : Nat) (amode : Space) (sample : Nat)
    (hsr : Byte) : State :=
  { s with
    rttyPtr := rptr
    rttyMode := rmode
    rttySr := rsr
    afskPtr := aptr
    afskMode := amode
    afskSample := sample
    hdlcSr := hsr }

section Agreeing

variable {s t : State}

/-- The second of two agreeing states, written as the first with other unwritten registers. -/
theorem AgreeWhereWritten.exists_eq (h : AgreeWhereWritten s t) :
    ∃ rptr rmode rsr aptr amode sample hsr, t = withUnwritten s rptr rmode rsr aptr amode sample hsr ∧
      (s.rttyLen ≠ 0 → rptr = s.rttyPtr ∧ rmode = s.rttyMode) ∧ (s.rttyBit ≠ 0#4 → rsr = s.rttySr) ∧
      (s.afskLen ≠ 0 → aptr = s.afskPtr ∧ amode = s.afskMode) ∧ (s.hdlcBit ≠ 7#3 → hsr = s.hdlcSr) :=
  ⟨_, _, _, _, _, _, _, h.same, h.rttyDescriptor, h.rttyShift, h.afskDescriptor, h.hdlcShift⟩

/-- An update of written registers alone, done to both. -/
theorem AgreeWhereWritten.update (h : AgreeWhereWritten s t) (g : State → State)
    (hsame : ∀ rptr rmode rsr aptr amode sample hsr,
      g (withUnwritten s rptr rmode rsr aptr amode sample hsr) =
        withUnwritten (g s) rptr rmode rsr aptr amode sample hsr)
    (hkeep : g s = { g s with
      rttyPtr := s.rttyPtr, rttyMode := s.rttyMode, rttySr := s.rttySr, afskPtr := s.afskPtr, afskMode := s.afskMode,
      hdlcSr := s.hdlcSr, rttyLen := s.rttyLen, rttyBit := s.rttyBit, afskLen := s.afskLen, hdlcBit := s.hdlcBit }) :
    AgreeWhereWritten (g s) (g t) := by
  obtain ⟨rptr, rmode, rsr, aptr, amode, sample, hsr, rfl, hr, hrs, ha, hhs⟩ := h.exists_eq
  rw [hsame rptr rmode rsr aptr amode sample hsr]
  generalize g s = u at hkeep
  refine ⟨rfl, ?_, ?_, ?_, ?_⟩
  · rw [hkeep]; exact hr
  · rw [hkeep]; exact hrs
  · rw [hkeep]; exact ha
  · rw [hkeep]; exact hhs

end Agreeing

/-! ### Memory and ownership -/

section Memory

variable {s t : State}

theorem AgreeWhereWritten.cfg (h : AgreeWhereWritten s t) : t.cfg = s.cfg := by rw [h.same]

theorem AgreeWhereWritten.spaceSize (h : AgreeWhereWritten s t) : t.cfg.spaceSize = s.cfg.spaceSize := by rw [h.cfg]

theorem AgreeWhereWritten.spaceMem (h : AgreeWhereWritten s t) (sp : Space) : spaceMem t sp = spaceMem s sp := by
  rw [h.same]; cases sp <;> rfl

theorem AgreeWhereWritten.fetch (h : AgreeWhereWritten s t) (sp : Space) (a : Nat) : fetch t sp a = fetch s sp a := by
  simp only [Machine.fetch, memRead, h.cfg, h.spaceMem]

theorem AgreeWhereWritten.fetchBytes (h : AgreeWhereWritten s t) (sp : Space) (n : Nat) :
    ∀ a, fetchBytes t sp a n = fetchBytes s sp a n := by
  induction n with
  | zero => intro; rfl
  | succ n ih => intro a; simp only [Machine.fetchBytes, h.fetch, ih]

/-- An idle descriptor owns nothing, and busy ones agree. -/
theorem AgreeWhereWritten.owned (h : AgreeWhereWritten s t) (a : Nat) : owned t a = owned s a := by
  have hidle (mode : Space) (ptr : Nat) : descriptorOwns mode ptr 0 a = false := by simp [descriptorOwns]
  obtain ⟨rptr, rmode, rsr, aptr, amode, sample, hsr, rfl, hr, -, ha, -⟩ := h.exists_eq
  have hrtty : descriptorOwns rmode rptr s.rttyLen a = descriptorOwns s.rttyMode s.rttyPtr s.rttyLen a := by
    by_cases hl : s.rttyLen = 0
    · rw [hl, hidle, hidle]
    · rw [(hr hl).1, (hr hl).2]
  have hafsk : descriptorOwns amode aptr s.afskLen a = descriptorOwns s.afskMode s.afskPtr s.afskLen a := by
    by_cases hl : s.afskLen = 0
    · rw [hl, hidle, hidle]
    · rw [(ha hl).1, (ha hl).2]
  simp only [Machine.owned, hrtty, hafsk]

theorem AgreeWhereWritten.firstOwned (h : AgreeWhereWritten s t) (n : Nat) :
    ∀ a, firstOwned t a n = firstOwned s a n := by
  induction n with
  | zero => intro; rfl
  | succ n ih => intro a; simp only [Machine.firstOwned, h.owned, ih]

theorem OutcomesAgree.refuseOwned {r r' : Res State} (h : AgreeWhereWritten s t) (addr n : Nat) (hr : OutcomesAgree r r') :
    OutcomesAgree (refuseOwned s addr n r) (refuseOwned t addr n r') := by
  unfold Machine.refuseOwned
  rw [h.firstOwned]
  split
  · exact .refused _
  · exact hr

theorem AgreeWhereWritten.memWrite (h : AgreeWhereWritten s t) (a : Nat) (b : Byte) :
    OutcomesAgree (memWrite s a b) (memWrite t a b) := by
  unfold Machine.memWrite
  rw [h.spaceSize]
  split
  · exact .next (h.update (fun u => { u with dataMem := Mem.write u.dataMem a b }) (fun _ _ _ _ _ _ _ => rfl) rfl)
  · exact .fault _

theorem AgreeWhereWritten.memWriteBytes {bs : List Byte} : ∀ {s t : State} {a : Nat}, AgreeWhereWritten s t →
    OutcomesAgree (memWriteBytes s a bs) (memWriteBytes t a bs) := by
  induction bs with
  | nil => intro s t a h; exact .next h
  | cons b bs ih => intro s t a h; exact (h.memWrite a b).andThen fun _ _ hu => ih hu

theorem AgreeWhereWritten.writeRange (h : AgreeWhereWritten s t) (a : Nat) (bs : List Byte) :
    OutcomesAgree (writeRange s a bs) (writeRange t a bs) :=
  .refuseOwned h a bs.length h.memWriteBytes

end Memory

/-! ### Commands of the host -/

section Commands

variable {s t : State}

/-- RESET writes every register, so it leaves nothing for the two to differ in. -/
theorem AgreeWhereWritten.resetRegisters (h : AgreeWhereWritten s t) : resetRegisters t = resetRegisters s := by
  rw [h.same]; rfl

theorem AgreeWhereWritten.respond (h : AgreeWhereWritten s t) (bs : List Byte) :
    AgreeWhereWritten (respond s bs) (respond t bs) :=
  h.update (fun u => Machine.respond u bs) (fun _ _ _ _ _ _ _ => rfl) rfl

theorem AgreeWhereWritten.hold (h : AgreeWhereWritten s t) : OutcomesAgree (hold s) (hold t) :=
  .next (h.update (fun u => { u with hostHeld := true }) (fun _ _ _ _ _ _ _ => rfl) rfl)

theorem AgreeWhereWritten.rttyBusy (h : AgreeWhereWritten s t) : rttyBusy t = rttyBusy s := by rw [h.same]; rfl

theorem AgreeWhereWritten.afskBusy (h : AgreeWhereWritten s t) : afskBusy t = afskBusy s := by rw [h.same]; rfl

/-- The frame builder reads memory and the configuration, and writes DATA and its three registers. -/
theorem AgreeWhereWritten.buildFrame (h : AgreeWhereWritten s t) (a : BuildArgs) :
    OutcomesAgree (buildFrame a s) (buildFrame a t) := by
  unfold Machine.buildFrame
  rw [h.fetchBytes, h.cfg]
  cases Machine.fetchBytes s a.pmode a.paddr a.plen with
  | fault e => exact .fault e
  | refused e => exact .refused e
  | next payload =>
    exact (h.writeRange a.dst _).andThen fun u v hu => .next <| hu.update
      (fun w => { w with
        crc := frameCrc s.cfg a payload
        fbLen := (frameBytes s.cfg a payload).length
        fbTrunc := frameTrunc s.cfg a payload }) (fun _ _ _ _ _ _ _ => rfl) rfl

theorem AgreeWhereWritten.rttySubmit (h : AgreeWhereWritten s t) (mode : Space) (addr len : Nat) :
    OutcomesAgree (execRttySubmit mode addr len s) (execRttySubmit mode addr len t) := by
  unfold execRttySubmit
  rw [h.rttyBusy, h.cfg]
  apply OutcomesAgree.requireRange
  split
  · exact h.hold
  · obtain ⟨rptr, rmode, rsr, aptr, amode, sample, hsr, rfl, -, hrs, ha, hhs⟩ := h.exists_eq
    exact .next ⟨rfl, fun _ => ⟨rfl, rfl⟩, hrs, ha, hhs⟩

theorem AgreeWhereWritten.afskSubmit (h : AgreeWhereWritten s t) (mode : Space) (addr len : Nat) :
    OutcomesAgree (execAfskSubmit mode addr len s) (execAfskSubmit mode addr len t) := by
  unfold execAfskSubmit
  rw [h.cfg, h.afskBusy]
  apply OutcomesAgree.requireRange
  split
  · exact h.hold
  · obtain ⟨rptr, rmode, rsr, aptr, amode, sample, hsr, rfl, hr, hrs, -, hhs⟩ := h.exists_eq
    exact .next ⟨rfl, hr, hrs, fun _ => ⟨rfl, rfl⟩, hhs⟩

theorem AgreeWhereWritten.rttyWait (h : AgreeWhereWritten s t) : OutcomesAgree (execRttyWait s) (execRttyWait t) := by
  unfold execRttyWait
  rw [h.rttyBusy]
  split
  · exact h.hold
  · exact .next h

theorem AgreeWhereWritten.afskWait (h : AgreeWhereWritten s t) : OutcomesAgree (execAfskWait s) (execAfskWait t) := by
  unfold execAfskWait
  rw [h.afskBusy]
  split
  · exact h.hold
  · exact .next h

theorem AgreeWhereWritten.hostLd (h : AgreeWhereWritten s t) (mode : Space) (addr : Nat) :
    OutcomesAgree (execHostLd mode addr s) (execHostLd mode addr t) := by
  unfold execHostLd
  rw [h.fetch]
  cases Machine.fetch s mode addr with
  | fault e => exact .fault e
  | refused e => exact .refused e
  | next b => exact .next (h.respond [b])

end Commands

/-! ### Ticks -/

section Ticks

variable {s t : State}

theorem fetch_of_ge {sp : Space} {a : Nat} (h : ¬ a < s.cfg.spaceSize) : fetch s sp a = .fault (.memRange sp a) :=
  memRead_of_ge h

theorem rttyFrameBit_start_of_ge (hb : s.rttyBit = 0#4) (hl : s.rttyLen ≠ 0) (hp : ¬ s.rttyPtr < s.cfg.spaceSize) :
    rttyFrameBit s = .fault (.memRange s.rttyMode s.rttyPtr) := by
  rw [rttyFrameBit, if_pos hb, if_neg hl, rttyStart, fetch_of_ge hp, andThen_fault]

theorem hdlcBitStep_content_of_ge (h5 : s.hdlcOnes ≠ 5#3) (h7 : s.hdlcBit = 7#3) (hf : flagDue s = false)
    (hp : ¬ s.afskPtr < s.cfg.spaceSize) : hdlcBitStep s = .fault (.memRange s.afskMode s.afskPtr) := by
  rw [hdlcBitStep, if_neg h5, if_pos h7, byteBoundary, if_neg (by simp [hf]), loadContent, fetch_of_ge hp]
  rfl

/-- The framing reads the descriptor where it is busy, and the shift register away from START. -/
theorem AgreeWhereWritten.rttyFrameBit (h : AgreeWhereWritten s t) : OutcomesAgree (rttyFrameBit s) (rttyFrameBit t) := by
  obtain ⟨rptr, rmode, rsr, aptr, amode, sample, hsr, rfl, hr, hrs, ha, hhs⟩ := h.exists_eq
  by_cases hb : s.rttyBit = 0#4
  · by_cases hl : s.rttyLen = 0
    · rw [rttyFrameBit_idle hb hl, rttyFrameBit_idle (s := withUnwritten s rptr rmode rsr aptr amode sample hsr) hb hl]
      exact .next ⟨rfl, hr, hrs, ha, hhs⟩
    · obtain ⟨rfl, rfl⟩ := hr hl
      by_cases hp : s.rttyPtr < s.cfg.spaceSize
      · rw [rttyFrameBit_start hb hl hp, rttyFrameBit_start (s := withUnwritten s s.rttyPtr s.rttyMode rsr aptr amode sample hsr) hb hl hp]
        exact .next ⟨rfl, fun _ => ⟨rfl, rfl⟩, fun _ => rfl, ha, hhs⟩
      · rw [rttyFrameBit_start_of_ge hb hl hp, rttyFrameBit_start_of_ge (s := withUnwritten s s.rttyPtr s.rttyMode rsr aptr amode sample hsr) hb hl hp]
        exact .fault _
  · obtain rfl := hrs hb
    by_cases h8 : s.rttyBit.toNat ≤ 8
    · rw [rttyFrameBit_data hb h8, rttyFrameBit_data (s := withUnwritten s rptr rmode s.rttySr aptr amode sample hsr) hb h8]
      exact .next ⟨rfl, hr, fun _ => rfl, ha, hhs⟩
    · have h9 : 8 < s.rttyBit.toNat := Nat.not_le.1 h8
      rw [rttyFrameBit_stop h9, rttyFrameBit_stop (s := withUnwritten s rptr rmode s.rttySr aptr amode sample hsr) h9]
      exact .next ⟨rfl, hr, fun _ => rfl, ha, hhs⟩

theorem AgreeWhereWritten.rttyTickStep (h : AgreeWhereWritten s t) : OutcomesAgree (rttyTickStep s) (rttyTickStep t) := by
  have hie : t.rttyIe = s.rttyIe := by rw [h.same]
  have hclk : t.rttyClk = s.rttyClk := by rw [h.same]
  by_cases hs : s.rttyIe = true
  · by_cases hk : s.rttyClk + 1 < s.cfg.nRtty
    · rw [rttyTickStep_count hs hk, rttyTickStep_count (s := t) (by rw [hie, hs]) (by rw [hclk, h.cfg]; exact hk)]
      exact .next (h.update (fun u => { u with rttyClk := u.rttyClk + 1 }) (fun _ _ _ _ _ _ _ => rfl) rfl)
    · have hk : s.cfg.nRtty ≤ s.rttyClk + 1 := Nat.not_lt.1 hk
      rw [rttyTickStep_boundary hs hk, rttyTickStep_boundary (s := t) (by rw [hie, hs]) (by rw [hclk, h.cfg]; exact hk)]
      exact (h.update (fun u => { u with rttyClk := 0 }) (fun _ _ _ _ _ _ _ => rfl) rfl).rttyFrameBit
  · have hs : s.rttyIe = false := by simpa using hs
    rw [rttyTickStep_off hs, rttyTickStep_off (s := t) (by rw [hie, hs])]
    exact .next h

/-- The bit sent comes from a shift register that is written. -/
theorem AgreeWhereWritten.emitBit (h : AgreeWhereWritten s t) (hsr : t.hdlcSr = s.hdlcSr) :
    AgreeWhereWritten (emitBit s) (emitBit t) := by
  obtain ⟨rptr, rmode, rsr, aptr, amode, sample, _, rfl, hr, hrs, ha, -⟩ := h.exists_eq
  obtain rfl := hsr
  rw [emitBit_eq, emitBit_eq]
  exact ⟨rfl, hr, hrs, ha, fun _ => rfl⟩

/-- The bit logic reads the descriptor where it is busy, and the shift register away from a byte boundary. -/
theorem AgreeWhereWritten.hdlcBitStep (h : AgreeWhereWritten s t) : OutcomesAgree (hdlcBitStep s) (hdlcBitStep t) := by
  obtain ⟨rptr, rmode, rsr, aptr, amode, sample, hsr, rfl, hr, hrs, ha, hhs⟩ := h.exists_eq
  by_cases h5 : s.hdlcOnes = 5#3
  · rw [hdlcBitStep_stuffed h5, hdlcBitStep_stuffed (s := withUnwritten s rptr rmode rsr aptr amode sample hsr) h5]
    exact .next ⟨rfl, hr, hrs, ha, hhs⟩
  by_cases h7 : s.hdlcBit = 7#3
  · by_cases hf : flagDue s = true
    · by_cases h1 : s.hdlcRest = 1#8
      · rw [hdlcBitStep_shut h5 h7 hf h1, hdlcBitStep_shut (s := withUnwritten s rptr rmode rsr aptr amode sample hsr) h5 h7 hf h1]
        exact .next ⟨rfl, hr, hrs, ha, fun hn => absurd rfl hn⟩
      · rw [hdlcBitStep_flag h5 h7 hf h1, hdlcBitStep_flag (s := withUnwritten s rptr rmode rsr aptr amode sample hsr) h5 h7 hf h1]
        exact .next (AgreeWhereWritten.emitBit ⟨rfl, hr, hrs, ha, fun _ => rfl⟩ rfl)
    · have hf : flagDue s = false := by simpa using hf
      obtain ⟨rfl, rfl⟩ := ha (flagDue_eq_false.1 hf).2
      by_cases hp : s.afskPtr < s.cfg.spaceSize
      · rw [hdlcBitStep_content h5 h7 hf hp, hdlcBitStep_content (s := withUnwritten s rptr rmode rsr s.afskPtr s.afskMode sample hsr) h5 h7 hf hp]
        exact .next (AgreeWhereWritten.emitBit ⟨rfl, hr, hrs, fun _ => ⟨rfl, rfl⟩, fun _ => rfl⟩ rfl)
      · rw [hdlcBitStep_content_of_ge h5 h7 hf hp,
          hdlcBitStep_content_of_ge (s := withUnwritten s rptr rmode rsr s.afskPtr s.afskMode sample hsr) h5 h7 hf hp]
        exact .fault _
  · obtain rfl := hhs h7
    rw [hdlcBitStep_mid h5 h7, hdlcBitStep_mid (s := withUnwritten s rptr rmode rsr aptr amode sample s.hdlcSr) h5 h7]
    exact .next (AgreeWhereWritten.emitBit ⟨rfl, hr, hrs, ha, fun _ => rfl⟩ rfl)

/-- The DDS part writes the sample, so it reads none. -/
theorem AgreeWhereWritten.ddsStep (h : AgreeWhereWritten s t) : AgreeWhereWritten (ddsStep s) (ddsStep t) := by
  obtain ⟨rptr, rmode, rsr, aptr, amode, sample, hsr, rfl, hr, hrs, ha, hhs⟩ := h.exists_eq
  exact ⟨rfl, hr, hrs, ha, hhs⟩

theorem AgreeWhereWritten.afskTickStep (h : AgreeWhereWritten s t) : OutcomesAgree (afskTickStep s) (afskTickStep t) := by
  have hie : t.afskIe = s.afskIe := by rw [h.same]
  have hclk : t.afskClk = s.afskClk := by rw [h.same]
  by_cases hs : s.afskIe = true
  · by_cases hk : s.afskClk + 1 < s.cfg.nAfsk
    · rw [afskTickStep_count hs hk, afskTickStep_count (s := t) (by rw [hie, hs]) (by rw [hclk, h.cfg]; exact hk)]
      exact .next (h.ddsStep.update (fun u => { u with afskClk := u.afskClk + 1 }) (fun _ _ _ _ _ _ _ => rfl) rfl)
    · have hk : s.cfg.nAfsk ≤ s.afskClk + 1 := Nat.not_lt.1 hk
      rw [afskTickStep_boundary hs hk, afskTickStep_boundary (s := t) (by rw [hie, hs]) (by rw [hclk, h.cfg]; exact hk)]
      exact (h.ddsStep.update (fun u => { u with afskClk := 0 }) (fun _ _ _ _ _ _ _ => rfl) rfl).hdlcBitStep
  · have hs : s.afskIe = false := by simpa using hs
    rw [afskTickStep_off hs, afskTickStep_off (s := t) (by rw [hie, hs])]
    exact .next h

theorem AgreeWhereWritten.tick (h : AgreeWhereWritten s t) : OutcomesAgree (execTick s) (execTick t) :=
  h.rttyTickStep.andThen fun _ _ => AgreeWhereWritten.afskTickStep

end Ticks

/-! ### Every operation -/

theorem AgreeWhereWritten.exec {s t : State} (h : AgreeWhereWritten s t) (i : Instr) :
    OutcomesAgree (exec i s) (exec i t) := by
  cases i with
  | reset => rw [exec_reset, exec_reset, h.resetRegisters]; exact .next ⟨rfl, by simp, by simp, by simp, by simp⟩
  | tick => exact h.tick
  | rttyTick => exact h.rttyTickStep
  | afskTick => exact h.afskTickStep
  | hostSt addr b => exact .refuseOwned h addr 1 (h.memWrite addr b)
  | hostLd mode addr => exact h.hostLd mode addr
  | status =>
    rw [exec_status, exec_status, show statusWord t = statusWord s by rw [h.same]; rfl]
    exact .next (h.respond _)
  | crcFcs =>
    rw [exec_crcFcs, exec_crcFcs, show t.crc = s.crc by rw [h.same]]
    exact .next (h.respond _)
  | fbLen =>
    rw [exec_fbLen, exec_fbLen, h.cfg, show t.fbLen = s.fbLen by rw [h.same]]
    exact .next (h.respond _)
  | rttySubmit mode addr len => exact h.rttySubmit mode addr len
  | afskSubmit mode addr len => exact h.afskSubmit mode addr len
  | rttyWait => exact h.rttyWait
  | afskWait => exact h.afskWait
  | rttyEnable on => exact .next (h.update (fun u => { u with rttyTxen := on }) (fun _ _ _ _ _ _ _ => rfl) rfl)
  | rttyIrq on => exact .next (h.update (fun u => { u with rttyIe := on }) (fun _ _ _ _ _ _ _ => rfl) rfl)
  | afskIrq on => exact .next (h.update (fun u => { u with afskIe := on }) (fun _ _ _ _ _ _ _ => rfl) rfl)
  | crcInit => exact .next (h.update (fun u => { u with crc := Config.crcInit }) (fun _ _ _ _ _ _ _ => rfl) rfl)
  | crcByte b => exact .next (h.update (fun u => { u with crc := crcUpdate u.crc b }) (fun _ _ _ _ _ _ _ => rfl) rfl)
  | fbBuild a =>
    rw [exec_fbBuild, exec_fbBuild, execFbBuild, execFbBuild, h.cfg]
    exact .requireCall (.requireCall (.requireCall (.requireCall (.requireRange (.requireRange (h.buildFrame a))))))
  | b91Enc value width dst =>
    rw [exec_b91Enc, exec_b91Enc, execB91Enc, execB91Enc, h.cfg]
    exact .requireRange (h.writeRange dst _)

/-- Settles O59: outcomes that agree, kind by kind. -/
theorem unspecifiedRegistersAreNotRead : Obligations.UnspecifiedRegistersAreNotRead := by
  intro i s t h
  have hr := h.exec i
  generalize exec i s = r at hr ⊢
  generalize exec i t = r' at hr ⊢
  cases hr with
  | next h =>
    refine ⟨?_, fun f e => (by cases e), fun r e => (by cases e)⟩
    intro s' e
    obtain rfl := Host.Outcome.next.inj e
    exact ⟨_, rfl, h⟩
  | fault f => exact ⟨fun _ e => (by cases e), fun _ e => e, fun _ e => (by cases e)⟩
  | refused r => exact ⟨fun _ e => (by cases e), fun _ e => (by cases e), fun _ e => e⟩

end Sys2Proof.Machine
end

section
/-! PROOFS of 10_state.md R53 and 60_exceptions.md R254: the invariant unit by unit, its preservation by everything an operation
can do, and that under it no operation faults and every tick completes. -/

namespace Sys2Proof.Machine

/-! ### The invariant by unit -/

/-- The part of the invariant about the two memories. -/
structure MemoryInv (s : State) : Prop where
  dataWF : Mem.wf s.dataMem = true
  dataIn : Mem.inSpace s.cfg.spaceSize s.dataMem = true
  constWF : Mem.wf s.constMem = true
  constIn : Mem.inSpace s.cfg.spaceSize s.constMem = true

/-- The part of the invariant about the RTTY transmitter. -/
structure RttyInv (s : State) : Prop where
  clk : s.rttyClk < s.cfg.nRtty
  bit : s.rttyBit.toNat ≤ 9
  ptr : s.rttyPtr < 2 ^ s.cfg.addrBits
  len : s.rttyLen < 2 ^ s.cfg.lenBits
  range : s.rttyLen ≠ 0 → s.rttyPtr + s.rttyLen ≤ s.cfg.spaceSize

/-- The part of the invariant about the AFSK transmitter. -/
structure AfskInv (s : State) : Prop where
  clk : s.afskClk < s.cfg.nAfsk
  ones : s.hdlcOnes.toNat ≤ 5
  stuffOff : s.hdlcStuff = false → s.hdlcOnes = 0#3
  restLow : 1 ≤ s.hdlcRest.toNat
  restHigh : s.hdlcRest.toNat ≤ s.cfg.restIdle
  ptr : s.afskPtr < 2 ^ s.cfg.addrBits
  len : s.afskLen < 2 ^ s.cfg.lenBits
  phase : s.ddsPhase < 2 ^ s.cfg.phaseBits
  sample : s.afskSample < 2 ^ s.cfg.sampleBits
  range : s.afskLen ≠ 0 → s.afskPtr + s.afskLen ≤ s.cfg.spaceSize

theorem inv_iff {s : State} :
    s.Inv ↔ s.cfg.WF ∧ MemoryInv s ∧ RttyInv s ∧ AfskInv s ∧ s.fbLen < 2 ^ s.cfg.lenBits := by
  constructor
  · intro h
    exact ⟨h.cfgWF, ⟨h.dataWF, h.dataIn, h.constWF, h.constIn⟩,
      ⟨h.rttyClk, h.rttyBit, h.rttyPtr, h.rttyLen, h.rttyRange⟩,
      ⟨h.afskClk, h.hdlcOnes, h.stuffOff, h.restLow, h.restHigh, h.afskPtr, h.afskLen, h.phase, h.sample, h.afskRange⟩,
      h.fbLen⟩
  · rintro ⟨hc, hm, hr, ha, hb⟩
    exact ⟨hc, hm.dataWF, hm.dataIn, hm.constWF, hm.constIn, hr.clk, ha.clk, hr.bit, ha.ones, ha.stuffOff, ha.restLow,
      ha.restHigh, hr.ptr, hr.len, ha.ptr, ha.len, ha.phase, ha.sample, hb, hr.range, ha.range⟩

section Transport

variable {s t : State}

theorem MemoryInv.of_same (hm : sameMemory s t) (h : MemoryInv s) : MemoryInv t := by
  obtain ⟨hd, hk, hc⟩ := hm
  exact ⟨hd ▸ h.dataWF, hc ▸ hd ▸ h.dataIn, hk ▸ h.constWF, hc ▸ hk ▸ h.constIn⟩

theorem RttyInv.of_same (hr : sameRtty s t) (hc : t.cfg = s.cfg) (h : RttyInv s) : RttyInv t := by
  obtain ⟨hptr, hlen, -, hclk, hbit, -⟩ := hr
  constructor <;> simp only [hptr, hlen, hclk, hbit, hc]
  exacts [h.clk, h.bit, h.ptr, h.len, h.range]

theorem AfskInv.of_same (ha : sameAfsk s t) (hc : t.cfg = s.cfg) (h : AfskInv s) : AfskInv t := by
  obtain ⟨hptr, hlen, -, hclk, hphase, -, hsample, -, -, hones, hstuff, hrest, -, -⟩ := ha
  constructor <;> simp only [hptr, hlen, hclk, hphase, hsample, hones, hstuff, hrest, hc]
  exacts [h.clk, h.ones, h.stuffOff, h.restLow, h.restHigh, h.ptr, h.len, h.phase, h.sample, h.range]

end Transport

/-! ### What a well-formed configuration gives -/

section Config

variable {c : Config}

theorem nAfsk_pos_of_wf (h : c.WF) : 0 < c.nAfsk := by
  obtain ⟨-, -, hn, -⟩ := h
  exact hn

theorem nRtty_pos_of_wf (h : c.WF) : 0 < c.nRtty := by
  obtain ⟨-, -, -, hn, -⟩ := h
  exact hn

theorem restIdle_lt_of_wf (h : c.WF) : c.restIdle < 256 := by
  obtain ⟨-, -, -, -, -, -, -, -, -, -, -, -, -, -, hr, -⟩ := h
  exact hr

theorem restCount_pos_of_wf (h : c.WF) : 1 ≤ c.restCount := by
  obtain ⟨-, -, -, -, -, -, -, -, -, -, -, -, -, hr, -⟩ := h
  exact hr

theorem frameCap_lt_of_wf (h : c.WF) : c.frameCap < 2 ^ c.lenBits := by
  obtain ⟨-, -, -, -, -, -, -, -, -, -, -, -, -, -, -, -, -, -, hcap, -⟩ := h
  exact hcap

theorem restIdle_eq (c : Config) : c.restIdle = 10 + c.restCount := rfl

/-- A rest count up to the idle value fits its register. -/
theorem ofNat_rest_toNat (h : c.WF) {n : Nat} (hn : n ≤ c.restIdle) : (BitVec.ofNat 8 n).toNat = n := by
  have := restIdle_lt_of_wf h
  rw [BitVec.toNat_ofNat]
  omega

end Config

/-! ### Ticks -/

/-- The address after a fetch that leaves bytes behind it is not wrapped. -/
theorem trunc_next_add_le {w ptr len : Nat} (h : ptr + len ≤ 2 ^ w) (hl : len - 1 ≠ 0) :
    trunc w (ptr + 1) + (len - 1) ≤ 2 ^ w := by
  rw [trunc_of_lt (by omega)]
  omega

theorem RttyTicked.inv {s t : State} (h : RttyTicked s t) (hc : s.cfg.WF) (hs : RttyInv s) : RttyInv t := by
  have hpos := nRtty_pos_of_wf hc
  cases h with
  | off => exact hs
  | count _ hk => exact { hs with clk := hk }
  | idle => exact { hs with clk := hpos }
  | start _ _ _ hl _ =>
    exact ⟨hpos, (by decide : (1#4).toNat ≤ 9), trunc_lt _ _, Nat.lt_of_le_of_lt (Nat.sub_le _ _) hs.len,
      trunc_next_add_le (hs.range hl)⟩
  | data _ _ _ h8 =>
    have hbit : (s.rttyBit + 1#4).toNat ≤ 9 := by
      rw [BitVec.toNat_add, BitVec.toNat_ofNat]
      omega
    exact { hs with clk := hpos, bit := hbit }
  | stop => exact { hs with clk := hpos, bit := (by decide : (0#4).toNat ≤ 9) }

/-- A bit sent with no stuffed 0 due leaves at most five 1s counted. -/
theorem AfskInv.emitBit {s : State} (h5 : s.hdlcOnes ≠ 5#3) (h : AfskInv s) : AfskInv (emitBit s) := by
  have h4 : s.hdlcOnes.toNat ≠ 5 := fun e => h5 (BitVec.eq_of_toNat_eq e)
  have hones := h.ones
  have hadd : (s.hdlcOnes + 1#3).toNat = s.hdlcOnes.toNat + 1 := by
    rw [BitVec.toNat_add, BitVec.toNat_ofNat]
    omega
  rw [emitBit_eq]
  refine { h with ones := ?_, stuffOff := ?_ }
  · show BitVec.toNat (if _ then (if _ then _ else _) else _) ≤ 5
    split_ifs
    · omega
    · exact hones
    · decide
  · intro hstuff
    have hoff : s.hdlcStuff = false := hstuff
    simp [hoff, h.stuffOff hoff]

theorem HdlcStepped.inv {s t : State} (h : HdlcStepped s t) (hc : s.cfg.WF) (hs : AfskInv s) : AfskInv t := by
  have hidle := ofNat_rest_toNat hc (Nat.le_refl _)
  have hlow := hs.restLow
  have hhigh := hs.restHigh
  cases h with
  | stuffed => exact { hs with ones := (by decide : (0#3).toNat ≤ 5), stuffOff := fun _ => rfl }
  | shut =>
    exact { hs with
      clk := nAfsk_pos_of_wf hc
      ones := (by decide : (0#3).toNat ≤ 5)
      stuffOff := fun _ => rfl
      restLow := (by rw [shutdown_hdlcRest, hidle, restIdle_eq]; omega)
      restHigh := (by rw [shutdown_hdlcRest, hidle]; exact Nat.le_refl _)
      phase := Nat.two_pow_pos _ }
  | flag h5 _ _ hr =>
    have h1 : s.hdlcRest.toNat ≠ 1 := fun e => hr (BitVec.eq_of_toNat_eq e)
    have hsub : (s.hdlcRest - 1#8).toNat = s.hdlcRest.toNat - 1 := by bv_omega
    refine AfskInv.emitBit (show 0#3 ≠ 5#3 by decide) { hs with
      ones := (by decide : (0#3).toNat ≤ 5), stuffOff := fun _ => rfl, restLow := ?_, restHigh := ?_ }
    · show 1 ≤ (s.hdlcRest - 1#8).toNat
      omega
    · show (s.hdlcRest - 1#8).toNat ≤ s.cfg.restIdle
      omega
  | content h5 _ hf hp =>
    have hl := (flagDue_eq_false.1 hf).2
    have hreload : (BitVec.ofNat 8 (s.cfg.restCount + 2)).toNat = s.cfg.restCount + 2 :=
      ofNat_rest_toNat hc (by rw [restIdle_eq]; omega)
    refine AfskInv.emitBit h5 { hs with
      stuffOff := nofun
      restLow := ?_
      restHigh := ?_
      ptr := trunc_lt _ _
      len := Nat.lt_of_le_of_lt (Nat.sub_le _ _) hs.len
      range := trunc_next_add_le (hs.range hl) }
    · show 1 ≤ BitVec.toNat (if _ then _ else _)
      split <;> omega
    · show BitVec.toNat (if _ then _ else _) ≤ s.cfg.restIdle
      rw [restIdle_eq] at hhigh ⊢
      split <;> omega
  | bit h5 => exact AfskInv.emitBit h5 { hs with }

/-- The DDS part and the symbol clock keep the invariant of the AFSK transmitter. -/
theorem AfskInv.ddsStep {s : State} {k : Nat} (hk : k < s.cfg.nAfsk) (h : AfskInv s) :
    AfskInv { ddsStep s with afskClk := k } :=
  { h with clk := hk, phase := trunc_lt _ _, sample := trunc_lt _ _ }

theorem AfskTicked.inv {s t : State} (h : AfskTicked s t) (hc : s.cfg.WF) (hs : AfskInv s) : AfskInv t := by
  cases h with
  | off => exact hs
  | count _ hk => exact hs.ddsStep hk
  | boundary _ _ _ hb => exact hb.inv hc (hs.ddsStep (nAfsk_pos_of_wf hc))

theorem inv_of_rttyTicked {s t : State} (h : RttyTicked s t) (hs : s.Inv) : t.Inv := by
  obtain ⟨hc, hm, hr, ha, hb⟩ := inv_iff.1 hs
  obtain ⟨sa, ⟨-, sl, -⟩, sm, -⟩ := h.frame
  have hcfg := sm.2.2
  exact inv_iff.2 ⟨hcfg ▸ hc, hm.of_same sm, h.inv hc hr, ha.of_same sa hcfg, by rw [sl, hcfg]; exact hb⟩

theorem inv_of_afskTicked {s t : State} (h : AfskTicked s t) (hs : s.Inv) : t.Inv := by
  obtain ⟨hc, hm, hr, ha, hb⟩ := inv_iff.1 hs
  obtain ⟨sr, ⟨-, sl, -⟩, sm, -⟩ := h.frame
  have hcfg := sm.2.2
  exact inv_iff.2 ⟨hcfg ▸ hc, hm.of_same sm, hr.of_same sr hcfg, h.inv hc ha, by rw [sl, hcfg]; exact hb⟩

/-! ### Every operation keeps the invariant -/

theorem inv_of_writeRange {s t : State} {addr : Nat} {bs : List Byte} (h : writeRange s addr bs = .next t) (hs : s.Inv) :
    t.Inv := by
  obtain ⟨-, hw⟩ := writeRange_spec hs.dataWF h
  have hwf := hw.wf
  have hin := hw.inSpace hs.dataIn
  rw [hw.frame]
  exact { hs with dataWF := hwf, dataIn := hin }

theorem inv_of_reset {s : State} (hs : s.Inv) : (resetRegisters s).Inv := by
  have hidle := ofNat_rest_toNat hs.cfgWF (Nat.le_refl s.cfg.restIdle)
  exact { hs with
    rttyClk := nRtty_pos_of_wf hs.cfgWF
    afskClk := nAfsk_pos_of_wf hs.cfgWF
    rttyBit := (by decide : (0#4).toNat ≤ 9)
    hdlcOnes := (by decide : (0#3).toNat ≤ 5)
    stuffOff := fun _ => rfl
    restLow := (by rw [resetRegisters_hdlcRest, hidle, restIdle_eq]; omega)
    restHigh := (by rw [resetRegisters_hdlcRest, hidle]; exact Nat.le_refl _)
    rttyPtr := freeBits_lt s 0 _
    rttyLen := Nat.two_pow_pos _
    afskPtr := freeBits_lt s 3 _
    afskLen := Nat.two_pow_pos _
    phase := Nat.two_pow_pos _
    sample := freeBits_lt s 5 _
    fbLen := Nat.two_pow_pos _
    rttyRange := fun h => absurd rfl h
    afskRange := fun h => absurd rfl h }

/-- The invariant is kept by every well-formed operation (10_state.md R53). -/
theorem exec_keeps_inv {i : Instr} {s t : State} (hwf : i.WF s.cfg) (h : exec i s = .next t) (hs : s.Inv) : t.Inv := by
  cases exec_ran h with
  | reset => exact inv_of_reset hs
  | tick u _ hr ha => exact inv_of_afskTicked ha (inv_of_rttyTicked hr hs)
  | rttyTick _ hr => exact inv_of_rttyTicked hr hs
  | afskTick _ ha => exact inv_of_afskTicked ha hs
  | rttySubmit mode addr len hr =>
    obtain ⟨haddr, hlen⟩ := of_decide_eq_true hwf
    exact { hs with rttyPtr := haddr, rttyLen := hlen, rttyRange := fun _ => hr }
  | afskSubmit mode addr len hr =>
    obtain ⟨haddr, hlen⟩ := of_decide_eq_true hwf
    exact { hs with afskPtr := haddr, afskLen := hlen, afskRange := fun _ => hr }
  | hostSt addr b _ ha =>
    exact { hs with dataWF := Mem.wf_write addr b hs.dataWF, dataIn := Mem.inSpace_write addr b ha hs.dataIn }
  | fbBuild a u payload hd hss h1 h2 hu =>
    have hcfg : u.cfg = s.cfg := by rw [writeRange_frame hu]
    have hlen : (frameBytes s.cfg a payload).length < 2 ^ u.cfg.lenBits := by
      rw [hcfg]
      exact Nat.lt_of_le_of_lt (frameBytes_le_cap (frameCap_ge_of_wf hs.cfgWF) hd hss h1 h2) (frameCap_lt_of_wf hs.cfgWF)
    exact { inv_of_writeRange hu hs with fbLen := hlen }
  | b91Enc value width dst _ hu => exact inv_of_writeRange hu hs
  | waited | held | responded | rttyEnable | rttyIrq | afskIrq | crc => exact { hs with }

/-! ### Ticks complete -/

theorem lt_spaceSize_of_range {c : Config} {ptr len : Nat} (hl : len ≠ 0) (h : ptr + len ≤ c.spaceSize) :
    ptr < c.spaceSize := by omega

theorem exists_rttyTicked {s : State} (hs : s.Inv) : ∃ t, RttyTicked s t := by
  by_cases hie : s.rttyIe = true
  · by_cases hk : s.rttyClk + 1 < s.cfg.nRtty
    · exact ⟨_, .count hie hk⟩
    · have hk : s.cfg.nRtty ≤ s.rttyClk + 1 := Nat.not_lt.1 hk
      by_cases hb : s.rttyBit = 0#4
      · by_cases hl : s.rttyLen = 0
        · exact ⟨_, .idle hie hk hb hl⟩
        · exact ⟨_, .start hie hk hb hl (lt_spaceSize_of_range hl (hs.rttyRange hl))⟩
      · by_cases h8 : s.rttyBit.toNat ≤ 8
        · exact ⟨_, .data hie hk hb h8⟩
        · exact ⟨_, .stop hie hk (Nat.not_le.1 h8)⟩
  · exact ⟨_, .off (by simpa using hie)⟩

theorem exists_hdlcStepped {s : State} (hs : AfskInv s) : ∃ t, HdlcStepped s t := by
  by_cases h5 : s.hdlcOnes = 5#3
  · exact ⟨_, .stuffed h5⟩
  by_cases h7 : s.hdlcBit = 7#3
  · by_cases hf : flagDue s = true
    · by_cases h1 : s.hdlcRest = 1#8
      · exact ⟨_, .shut h5 h7 hf h1⟩
      · exact ⟨_, .flag h5 h7 hf h1⟩
    · have hf : flagDue s = false := by simpa using hf
      have hl := (flagDue_eq_false.1 hf).2
      exact ⟨_, .content h5 h7 hf (lt_spaceSize_of_range hl (hs.range hl))⟩
  · exact ⟨_, .bit h5 h7⟩

theorem exists_afskTicked {s : State} (hs : s.Inv) : ∃ t, AfskTicked s t := by
  obtain ⟨hc, -, -, ha, -⟩ := inv_iff.1 hs
  by_cases hie : s.afskIe = true
  · by_cases hk : s.afskClk + 1 < s.cfg.nAfsk
    · exact ⟨_, .count hie hk⟩
    · obtain ⟨t, ht⟩ := exists_hdlcStepped (ha.ddsStep (nAfsk_pos_of_wf hc))
      exact ⟨t, .boundary hie (Nat.not_lt.1 hk) t ht⟩
  · exact ⟨_, .off (by simpa using hie)⟩

theorem exists_ticked {s : State} (hs : s.Inv) : ∃ u t, RttyTicked s u ∧ AfskTicked u t := by
  obtain ⟨u, hr⟩ := exists_rttyTicked hs
  obtain ⟨t, ha⟩ := exists_afskTicked (inv_of_rttyTicked hr hs)
  exact ⟨u, t, hr, ha⟩

/-- Settles O20: in each state of the invariant one way of each half is open. -/
theorem ticksComplete : Obligations.TicksComplete := by
  intro s hs
  obtain ⟨u, t, hr, ha⟩ := exists_ticked hs
  obtain ⟨v, hv⟩ := exists_afskTicked hs
  exact ⟨⟨t, exec_tick_eq_next.2 ⟨u, hr, ha⟩⟩, ⟨u, rttyTickStep_of_ticked hr⟩, ⟨v, afskTickStep_of_ticked hv⟩⟩

/-! ### No operation faults -/

theorem requireRange_eq_fault {c : Config} {op : Byte} {f : Field} {addr n : Nat} {k : Res State} {e : Fault} :
    requireRange c op f addr n k = .fault e ↔ rangeOk c addr n ∧ k = .fault e := by
  unfold requireRange; split <;> simp_all

theorem requireCall_eq_fault {op : Byte} {f : Field} {call : Call} {k : Res State} {e : Fault} :
    requireCall op f call k = .fault e ↔ call.WF ∧ k = .fault e := by
  unfold requireCall; split <;> simp_all

theorem writeRange_ne_fault {s : State} {addr : Nat} {bs : List Byte} {e : Fault}
    (hr : addr + bs.length ≤ s.cfg.spaceSize) : writeRange s addr bs ≠ .fault e := by
  intro h
  obtain ⟨t, ht⟩ := memWriteBytes_of_range hr
  rw [refuseOwned_eq_fault h] at ht
  cases ht

theorem execFbBuild_ne_fault {s : State} {a : BuildArgs} {e : Fault} (hc : s.cfg.WF) : execFbBuild a s ≠ .fault e := by
  intro h
  simp only [execFbBuild, requireCall_eq_fault, requireRange_eq_fault] at h
  obtain ⟨hd, hs, h1, h2, hdst, hpaddr, h⟩ := h
  rw [buildFrame, fetchBytes_of_range hpaddr, andThen_next] at h
  rcases andThen_eq_fault.1 h with h | ⟨u, -, h⟩
  · have hcap := frameBytes_le_cap (payload := pendingBytes s a.pmode a.paddr a.plen) (frameCap_ge_of_wf hc) hd hs h1 h2
    exact writeRange_ne_fault (Nat.le_trans (Nat.add_le_add_left hcap _) hdst) h
  · cases h

/-- A well-formed operation in a state of the invariant never faults (60_exceptions.md R254). -/
theorem exec_ne_fault {i : Instr} {s : State} {e : Fault} (hwf : i.WF s.cfg) (hs : s.Inv) : exec i s ≠ .fault e := by
  obtain ⟨⟨t, ht⟩, ⟨u, hu⟩, ⟨v, hv⟩⟩ := ticksComplete s hs
  intro h
  cases i with
  | tick => rw [ht] at h; cases h
  | rttyTick => rw [hu] at h; cases h
  | afskTick => rw [hv] at h; cases h
  | hostSt addr b =>
    have := refuseOwned_eq_fault h
    rw [memWrite_of_lt (of_decide_eq_true hwf)] at this
    cases this
  | hostLd mode addr =>
    rw [exec_hostLd, execHostLd_of_lt (of_decide_eq_true hwf)] at h
    cases h
  | rttySubmit mode addr len =>
    obtain ⟨-, h⟩ := requireRange_eq_fault.1 h
    split at h <;> cases h
  | afskSubmit mode addr len =>
    obtain ⟨-, h⟩ := requireRange_eq_fault.1 h
    split at h <;> cases h
  | rttyWait => rw [exec_rttyWait, execRttyWait] at h; split at h <;> cases h
  | afskWait => rw [exec_afskWait, execAfskWait] at h; split at h <;> cases h
  | fbBuild a => exact execFbBuild_ne_fault hs.cfgWF h
  | b91Enc value width dst =>
    obtain ⟨hr, h⟩ := requireRange_eq_fault.1 h
    exact writeRange_ne_fault (by rw [b91_length]; exact hr) h
  | reset | status | rttyEnable | rttyIrq | afskIrq | crcInit | crcByte | crcFcs | fbLen => cases h

/-! ### Power-on -/

/-- Settles O1: the invariant register by register, and RESET on the reset values. -/
theorem powerOnSatisfiesInvariant : Obligations.PowerOnSatisfiesInvariant := by
  rintro c k d s hc hkwf hkin hdwf hdin rfl
  have hidle := ofNat_rest_toNat hc (Nat.le_refl c.restIdle)
  have hinv : (State.powerOn c k d).Inv :=
    { cfgWF := hc
      dataWF := hdwf
      dataIn := hdin
      constWF := hkwf
      constIn := hkin
      rttyClk := nRtty_pos_of_wf hc
      afskClk := nAfsk_pos_of_wf hc
      rttyBit := (by decide : (0#4).toNat ≤ 9)
      hdlcOnes := (by decide : (0#3).toNat ≤ 5)
      stuffOff := fun _ => rfl
      restLow := (by show 1 ≤ (BitVec.ofNat 8 c.restIdle).toNat; rw [hidle, restIdle_eq]; omega)
      restHigh := (by show (BitVec.ofNat 8 c.restIdle).toNat ≤ c.restIdle; rw [hidle])
      rttyPtr := Nat.two_pow_pos _
      rttyLen := Nat.two_pow_pos _
      afskPtr := Nat.two_pow_pos _
      afskLen := Nat.two_pow_pos _
      phase := Nat.two_pow_pos _
      sample := Nat.two_pow_pos _
      fbLen := Nat.two_pow_pos _
      rttyRange := fun h => absurd rfl h
      afskRange := fun h => absurd rfl h }
  refine ⟨hinv, ⟨rfl, rfl, rfl, rfl, rfl, rfl, rfl, rfl⟩, ?_⟩
  have hstatus : statusWord (State.powerOn c k d) = 0x00#8 := by
    simp [statusWord, rttyBusy, afskBusy, State.powerOn, statusBit_false]
  refine ⟨rfl, rfl, rfl, rfl, rfl, rfl, rfl, rfl, rfl, rfl, rfl, rfl, rfl, rfl, rfl, rfl, rfl, rfl, rfl, rfl, rfl, rfl, rfl,
    rfl, hstatus, rfl, _, exec_reset _, rfl⟩

end Sys2Proof.Machine
end

section
/-! PROOFS of the two agents (00_scope.md R8, 20_memory.md R70, 46_system.md R243, 60_exceptions.md R256): what the host's turn
and the tick agent's come to, that every step is one operation, and what follows for the invariant, for faults and for a host
that holds. -/

namespace Sys2Proof.Machine

/-! ### States that differ in the agents' own fields -/

/-- `u` differs from `s` at most in the stream, the hold note, the schedule and the free-value counter. -/
abbrev AgentsOnly (s u : State) : Prop :=
  u = { s with hostIn := u.hostIn, hostHeld := u.hostHeld, sched := u.sched, freeIdx := u.freeIdx }

section AgentsOnly

variable {s u v : State}

theorem AgentsOnly.trans (h : AgentsOnly s u) (g : AgentsOnly u v) : AgentsOnly s v := by
  rw [AgentsOnly, g, h]

theorem AgentsOnly.cfg (h : AgentsOnly s u) : u.cfg = s.cfg := by rw [h]

theorem AgentsOnly.sameRtty (h : AgentsOnly s u) : sameRtty s u := by rw [h]; simp [Machine.sameRtty]

theorem AgentsOnly.sameAfsk (h : AgentsOnly s u) : sameAfsk s u := by rw [h]; simp [Machine.sameAfsk]

theorem AgentsOnly.inv (h : AgentsOnly s u) (hs : s.Inv) : u.Inv := by rw [h]; exact { hs with }

theorem agentsOnly_nextTurn (s : State) : AgentsOnly s (nextTurn s).2 := by rw [AgentsOnly, nextTurn_frame s]

theorem agentsOnly_takeCommand (s : State) (rest : List Byte) : AgentsOnly s (takeCommand s rest) := rfl

theorem agentsOnly_holding (s : State) : AgentsOnly s (holding s) := rfl

theorem nextTurn_hostIn (s : State) : (nextTurn s).2.hostIn = s.hostIn := by rw [nextTurn_frame s]

end AgentsOnly

/-! ### The host's turn -/

/-- What the host's decoder answers is a well-formed command of the host at the head of the stream. -/
theorem decodeHost_eq_ok {c : Config} {bs rest : List Byte} {i : Instr} (h : decodeHost c bs = .ok (i, rest)) :
    i.WF c ∧ i.agent = .host ∧ bs = encode c i ++ rest := by
  unfold decodeHost at h
  split at h
  · next j r hdec =>
    split at h
    · next hagent =>
      cases h
      obtain ⟨hwf, hbs⟩ := decodedBytesAreTheEncoding _ _ _ _ hdec
      exact ⟨hwf, hagent, hbs⟩
    · cases h
  · cases h

section HostTurn

variable {s t : State} {i : Instr} {rest : List Byte}

theorem hostTurn_of_ok (h : decodeHost s.cfg s.hostIn = .ok (i, rest)) :
    hostTurn s = Res.andThen (exec i (takeCommand s rest)) fun t => if t.hostHeld then tickTurn (holding s) else .next t := by
  rw [hostTurn, h]

theorem hostTurn_of_next (h : decodeHost s.cfg s.hostIn = .ok (i, rest)) (hx : exec i (takeCommand s rest) = .next t)
    (ht : t.hostHeld = false) : hostTurn s = .next t := by
  rw [hostTurn_of_ok h, hx, andThen_next, ht]
  rfl

theorem hostTurn_of_held (h : decodeHost s.cfg s.hostIn = .ok (i, rest)) (hx : exec i (takeCommand s rest) = .next t)
    (ht : t.hostHeld = true) : hostTurn s = exec .tick (holding s) := by
  rw [hostTurn_of_ok h, hx, andThen_next, if_pos ht, tickTurn_eq]

theorem hostTurn_of_fault {f : Fault} (h : decodeHost s.cfg s.hostIn = .ok (i, rest))
    (hx : exec i (takeCommand s rest) = .fault f) : hostTurn s = .fault f := by
  rw [hostTurn_of_ok h, hx, andThen_fault]

theorem hostTurn_of_refused {r : Refusal} (h : decodeHost s.cfg s.hostIn = .ok (i, rest))
    (hx : exec i (takeCommand s rest) = .refused r) : hostTurn s = .refused r := by
  rw [hostTurn_of_ok h, hx, andThen_refused]

theorem hostTurn_of_noCommand (h : s.hostIn = []) : hostTurn s = exec .tick s := by
  rw [hostTurn, decodeHost_eq_noCommand.2 h]
  exact tickTurn_eq s

end HostTurn

/-- Settles O10: the decoder's answer, and the host's turn by the outcome of the command. -/
theorem stepRunsDecodedCommand : Obligations.StepRunsDecodedCommand := by
  intro s u i rest hturn hdec
  obtain ⟨hwf, hagent, hbs⟩ := decodeHost_eq_ok hdec
  rw [step_host hturn]
  exact ⟨hwf, hagent, hbs, fun _ hx ht => hostTurn_of_next hdec hx ht, fun _ hx ht => hostTurn_of_held hdec hx ht,
    fun _ hx => hostTurn_of_fault hdec hx, fun _ hx => hostTurn_of_refused hdec hx⟩

/-! ### The tick agent's turn -/

/-- With the AFSK tick masked, TICK is its RTTY half, whatever that answers. -/
theorem exec_tick_of_afsk_masked {s : State} (h : s.afskIe = false) : exec .tick s = exec .rttyTick s := by
  rw [exec_tick, execTick, exec_rttyTick]
  cases hr : rttyTickStep s with
  | fault f => rfl
  | refused r => rfl
  | next t =>
    obtain ⟨⟨-, -, -, -, -, -, -, -, -, -, -, -, -, hie⟩, -⟩ := (rttyTickStep_cases hr).frame
    rw [andThen_next, afskTickStep_off (hie.trans h)]

theorem exec_tick_of_rtty_masked {s : State} (h : s.rttyIe = false) : exec .tick s = exec .afskTick s := by
  rw [exec_tick, execTick, rttyTickStep_off h, andThen_next, exec_afskTick]

/-- Settles O11: TICK, and its one half where the other is masked. -/
theorem stepRunsTickEvent : Obligations.StepRunsTickEvent := by
  intro s u hturn
  rw [step_tick hturn]
  exact ⟨rfl, exec_tick_of_afsk_masked, exec_tick_of_rtty_masked⟩

/-! ### Whose turn it is -/

section NextTurn

variable {s : State}

theorem nextTurn_of_sched {t : Turn} {ts : List Turn} (h : s.sched = t :: ts) :
    nextTurn s = (t, { s with sched := ts }) := by
  rw [nextTurn, h]

theorem nextTurn_of_no_command (h : s.sched = []) (hin : s.hostIn = []) : nextTurn s = (.tick, s) := by
  rw [nextTurn, h]
  exact if_pos hin

theorem nextTurn_of_open (h : s.sched = []) (hin : s.hostIn ≠ []) :
    nextTurn s = (if Config.freeTurn s.freeIdx then .host else .tick, { s with freeIdx := s.freeIdx + 1 }) := by
  rw [nextTurn, h]
  refine (if_neg hin).trans ?_
  cases Config.freeTurn s.freeIdx <;> rfl

end NextTurn

/-- Settles O12: the three ways a turn is decided. -/
theorem turnsAreTakenInOrder : Obligations.TurnsAreTakenInOrder := by
  intro s
  refine ⟨fun _ _ => nextTurn_of_sched, fun h hin => step_tick (nextTurn_of_no_command h hin), ?hostTurn, nextTurn_of_open⟩
  case hostTurn =>
    intro ts h hin
    rw [step_host (nextTurn_of_sched h)]
    exact hostTurn_of_noCommand hin

/-! ### Every step is one operation -/

/-- What a step comes to: a TICK, a command of the host that does not hold, or a refusal of its decoder. -/
inductive StepIs (s : State) : Prop where
  | tick (u : State) (hu : AgentsOnly s u) (hin : u.hostIn = s.hostIn) (h : step s = exec .tick u)
  | command (u : State) (i : Instr) (hu : AgentsOnly s u) (hi : i.agent = .host) (hwf : i.WF s.cfg)
      (hin : s.hostIn = encode s.cfg i ++ u.hostIn) (h : step s = exec i u)
      (hheld : ∀ t, exec i u = .next t → t.hostHeld = false)
  | refused (r : Refusal) (h : step s = .refused r)

theorem stepIs_of_hostTurn {s u : State} (hturn : nextTurn s = (.host, u)) : StepIs s := by
  have hu : AgentsOnly s u := by simpa [hturn] using agentsOnly_nextTurn s
  have hin : u.hostIn = s.hostIn := by simpa [hturn] using nextTurn_hostIn s
  cases hdec : decodeHost u.cfg u.hostIn with
  | error e =>
    cases e with
    | noCommand =>
      exact .tick u hu hin (by rw [step_host hturn, hostTurn_of_noCommand (decodeHost_eq_noCommand.1 hdec)])
    | illegalOpcode op => exact .refused _ (by rw [step_host hturn, hostTurn_of_illegalOpcode hdec])
    | badOperand op f => exact .refused _ (by rw [step_host hturn, hostTurn_of_badOperand hdec])
  | ok p =>
    obtain ⟨i, rest⟩ := p
    obtain ⟨hwf, hi, hbs⟩ := decodeHost_eq_ok hdec
    rw [hu.cfg] at hwf
    rw [hu.cfg, hin] at hbs
    have hcommand := StepIs.command (takeCommand u rest) i (hu.trans (agentsOnly_takeCommand u rest)) hi hwf hbs
    cases hx : exec i (takeCommand u rest) with
    | fault f =>
      exact hcommand (by rw [step_host hturn, hostTurn_of_fault hdec hx, hx]) (fun t ht => by rw [hx] at ht; cases ht)
    | refused r => exact .refused r (by rw [step_host hturn, hostTurn_of_refused hdec hx])
    | next t =>
      cases hheld : t.hostHeld with
      | true =>
        exact .tick (holding u) (hu.trans (agentsOnly_holding u)) hin
          (by rw [step_host hturn, hostTurn_of_held hdec hx hheld])
      | false =>
        refine hcommand (by rw [step_host hturn, hostTurn_of_next hdec hx hheld, hx]) (fun t' ht' => ?_)
        rw [hx] at ht'
        cases ht'
        exact hheld

theorem stepIs (s : State) : StepIs s := by
  cases hturn : nextTurn s with
  | mk turn u =>
    cases turn with
    | host => exact stepIs_of_hostTurn hturn
    | tick =>
      exact .tick u (by simpa [hturn] using agentsOnly_nextTurn s) (by simpa [hturn] using nextTurn_hostIn s)
        (step_tick hturn)

/-- Settles O60: a step that goes on is no refusal. -/
theorem everyStepIsOneOperation : Obligations.EveryStepIsOneOperation := by
  intro s t hstep
  cases stepIs s with
  | tick u hu hin h => exact ⟨u, hu, .inl ⟨hin, h ▸ hstep⟩⟩
  | command u i hu hi hwf hin h hheld => exact ⟨u, hu, .inr ⟨i, hi, hwf, hin, h ▸ hstep, hheld t (h ▸ hstep)⟩⟩
  | refused r h => rw [h] at hstep; cases hstep

/-! ### The invariant and faults, step by step -/

/-- Settles O2: the one operation of the step keeps the invariant. -/
theorem stepKeepsInvariant : Obligations.StepKeepsInvariant := by
  intro s t hs hstep
  obtain ⟨u, hu, ⟨-, hx⟩ | ⟨i, -, hwf, -, hx, -⟩⟩ := everyStepIsOneOperation s t hstep
  · exact exec_keeps_inv rfl hx (AgentsOnly.inv hu hs)
  · exact exec_keeps_inv (AgentsOnly.cfg hu ▸ hwf) hx (AgentsOnly.inv hu hs)

/-- Settles O3: the one operation of the step does not fault. -/
theorem invariantRulesOutFaults : Obligations.InvariantRulesOutFaults := by
  intro s f hs hstep
  cases stepIs s with
  | tick u hu hin h => exact exec_ne_fault rfl (hu.inv hs) (h ▸ hstep)
  | command u i hu hi hwf hin h hheld => exact exec_ne_fault (hu.cfg ▸ hwf) (hu.inv hs) (h ▸ hstep)
  | refused r h => rw [h] at hstep; cases hstep

/-! ### A host that holds -/

/-- Where the command at the head of the stream holds, every step is a TICK with the command still there. -/
theorem step_eq_tick_of_held {s : State} {i : Instr} {rest : List Byte}
    (hdec : decodeHost s.cfg s.hostIn = .ok (i, rest))
    (hheld : ∀ u, AgentsOnly s u → exec i u = .next { u with hostHeld := true }) :
    ∃ u, AgentsOnly s u ∧ u.hostIn = s.hostIn ∧ step s = exec .tick u := by
  cases hturn : nextTurn s with
  | mk turn u =>
    have hu : AgentsOnly s u := by simpa [hturn] using agentsOnly_nextTurn s
    have hin : u.hostIn = s.hostIn := by simpa [hturn] using nextTurn_hostIn s
    cases turn with
    | tick => exact ⟨u, hu, hin, step_tick hturn⟩
    | host =>
      rw [← hin, ← hu.cfg] at hdec
      have hx := hheld (takeCommand u rest) (hu.trans (agentsOnly_takeCommand u rest))
      exact ⟨holding u, hu.trans (agentsOnly_holding u), hin,
        by rw [step_host hturn, hostTurn_of_held hdec hx rfl]⟩

/-- A property that every step keeps holds after any number of steps. -/
theorem stepTimes_of_step {P : State → Prop} (hstep : ∀ s, P s → ∃ t, step s = .next t ∧ P t) (n : Nat) :
    ∀ s, P s → ∃ t, stepTimes n s = .next t ∧ P t := by
  induction n with
  | zero => exact fun s hs => ⟨s, rfl, hs⟩
  | succ n ih =>
    intro s hs
    obtain ⟨u, hu, hPu⟩ := hstep s hs
    obtain ⟨t, ht, hPt⟩ := ih u hPu
    exact ⟨t, by rw [stepTimes, hu, andThen_next, ht], hPt⟩

/-- What stays while the host hangs at the command `i`: the invariant, the stream and the configuration; `same` is the
transmitter it hangs on. -/
structure Hanging (same : State → State → Prop) (s t : State) : Prop where
  inv : t.Inv
  stream : t.hostIn = s.hostIn
  cfg : t.cfg = s.cfg
  regs : same s t

/-- A host whose command holds as long as a transmitter stands still, and a transmitter that stands still at every TICK: both
for ever. -/
theorem stepTimes_of_hanging {same : State → State → Prop} {s : State} {i : Instr} {rest : List Byte} (n : Nat)
    (hs : s.Inv) (hrefl : same s s) (hdec : decodeHost s.cfg s.hostIn = .ok (i, rest))
    (hagents : ∀ t u, same s t → AgentsOnly t u → same s u)
    (hheld : ∀ t, same s t → t.cfg = s.cfg → exec i t = .next { t with hostHeld := true })
    (htick : ∀ t u v, same s t → RttyTicked t u → AfskTicked u v → same s v) :
    ∃ t, stepTimes n s = .next t ∧ t.hostIn = s.hostIn ∧ same s t := by
  have hkeep : ∀ t, Hanging same s t → ∃ t', step t = .next t' ∧ Hanging same s t' := by
    intro t ht
    obtain ⟨u, hu, hin, hstep⟩ := step_eq_tick_of_held (s := t) (by rw [ht.cfg, ht.stream]; exact hdec)
      (fun u hu => hheld u (hagents t u ht.regs hu) (hu.cfg.trans ht.cfg))
    obtain ⟨v, w, hr, ha⟩ := exists_ticked (hu.inv ht.inv)
    have hw := exec_tick_eq_next.2 ⟨v, hr, ha⟩
    obtain ⟨-, -, ⟨-, -, rc⟩, ⟨rin, -⟩, -⟩ := hr.frame
    obtain ⟨-, -, ⟨-, -, ac⟩, ⟨ain, -⟩, -⟩ := ha.frame
    exact ⟨w, hstep.trans hw, inv_of_afskTicked ha (inv_of_rttyTicked hr (hu.inv ht.inv)),
      ain.trans (rin.trans (hin.trans ht.stream)), ac.trans (rc.trans (hu.cfg.trans ht.cfg)),
      htick u v w (hagents t u ht.regs hu) hr ha⟩
  obtain ⟨t, ht, hang⟩ := stepTimes_of_step hkeep n s ⟨hs, rfl, rfl, hrefl⟩
  exact ⟨t, ht, hang.stream, hang.regs⟩

theorem rttyTicked_of_masked {s t : State} (h : RttyTicked s t) (hie : s.rttyIe = false) : t = s :=
  rttyTicked_unique h (.off hie)

theorem afskTicked_of_masked {s t : State} (h : AfskTicked s t) (hie : s.afskIe = false) : t = s :=
  afskTicked_unique h (.off hie)

/-- Settles O42: a wait or a submission holds while its transmitter is busy, and a masked transmitter stays as it is. -/
theorem maskedBusyTransmitterHangsTheHost : Obligations.MaskedBusyTransmitterHangsTheHost := by
  intro n s i rest hs hdec
  constructor
  · intro hl hie hi
    have hrefl : sameRtty s s := ⟨rfl, rfl, rfl, rfl, rfl, rfl, rfl, rfl, rfl⟩
    refine stepTimes_of_hanging n hs hrefl hdec (fun t u ht hu => sameRtty_trans ht hu.sameRtty) ?held ?tick
    case held =>
      intro t ht hc
      have htl : t.rttyLen ≠ 0 := ht.2.1 ▸ hl
      obtain rfl | ⟨mode, addr, len, rfl, hr⟩ := hi
      · exact execRttyWait_of_busy htl
      · exact (rttySubmitHandsOver t mode addr len).2.1 (hc ▸ hr) htl
    case tick =>
      intro t u v ht hr ha
      obtain ⟨-, -, -, -, -, -, -, -, htie⟩ := id ht
      rw [rttyTicked_of_masked hr (htie.trans hie)] at ha
      exact sameRtty_trans ht ha.frame.1
  · intro hl hie hi
    have hrefl : sameAfsk s s := ⟨rfl, rfl, rfl, rfl, rfl, rfl, rfl, rfl, rfl, rfl, rfl, rfl, rfl, rfl⟩
    refine stepTimes_of_hanging n hs hrefl hdec (fun t u ht hu => sameAfsk_trans ht hu.sameAfsk) ?held' ?tick'
    case held' =>
      intro t ht hc
      have htl : t.afskLen ≠ 0 := ht.2.1 ▸ hl
      obtain rfl | ⟨mode, addr, len, rfl, hr⟩ := hi
      · exact execAfskWait_of_busy htl
      · exact (afskSubmitHandsOver t mode addr len).2.1 (hc ▸ hr) htl
    case tick' =>
      intro t u v ht hr ha
      have hu : sameAfsk s u := sameAfsk_trans ht hr.frame.1
      obtain ⟨-, -, -, -, -, -, -, -, -, -, -, -, -, huie⟩ := id hu
      rw [afskTicked_of_masked ha (huie.trans hie)]
      exact hu

end Sys2Proof.Machine
end

section
/-! PROOFS of the line functions (41_rtty.md R147, 43_hdlc.md R182 to R188): what stuffing leaves on the line, the bits each
transmitter has still to send, what a bit period and a tick do to them, and whole runs of ticks. -/

namespace Sys2Proof.Machine

/-! ### Stuffed bits -/

/-- With `n` 1s just before: no run of 1s is longer than five, and a run of five ends in a 0. -/
def RunsStuffed : Nat → List Bool → Prop
  | n, [] => n < 5
  | _, false :: xs => RunsStuffed 0 xs
  | n, true :: xs => n < 5 ∧ RunsStuffed (n + 1) xs

theorem runsStuffed_stuffFrom {n : Nat} (hn : n < 5) (xs : List Bool) : RunsStuffed n (stuffFrom n xs) := by
  induction xs generalizing n with
  | nil => exact hn
  | cons x xs ih =>
    cases x with
    | false => exact ih (Nat.zero_lt_succ 4)
    | true =>
      rw [stuffFrom, Config.stuffRun]
      split
      · exact ⟨hn, ih (Nat.zero_lt_succ 4)⟩
      · exact ⟨hn, ih (by omega)⟩

theorem RunsStuffed.of_append {n : Nat} {xs ys : List Bool} (h : RunsStuffed n (xs ++ ys)) : ∃ m, RunsStuffed m ys := by
  induction xs generalizing n with
  | nil => exact ⟨n, h⟩
  | cons x xs ih =>
    cases x with
    | false => exact ih (n := 0) h
    | true => exact ih h.2

theorem RunsStuffed.of_ones {n k : Nat} {ys : List Bool} (h : RunsStuffed n (List.replicate (k + 1) true ++ ys)) :
    n + k < 5 ∧ RunsStuffed (n + k + 1) ys := by
  induction k generalizing n with
  | zero => exact h
  | succ k ih =>
    obtain ⟨-, h⟩ := h
    rw [show n + (k + 1) = n + 1 + k by omega]
    exact ih h

theorem RunsStuffed.head_of_five {ys : List Bool} (h : RunsStuffed 5 ys) : ys.head? = some false := by
  match ys, h with
  | false :: _, _ => rfl
  | true :: _, h => exact absurd h.1 (Nat.lt_irrefl 5)
  | [], h => exact absurd h (Nat.lt_irrefl 5)

/-- Every five 1s in stuffed bits have a 0 after them. -/
theorem stuff_after_five {xs before after : List Bool} (h : stuff xs = before ++ List.replicate 5 true ++ after) :
    after.head? = some false := by
  have hruns := runsStuffed_stuffFrom (Nat.zero_lt_succ 4) xs
  rw [← stuff, h, List.append_assoc] at hruns
  obtain ⟨n, hn⟩ := hruns.of_append
  obtain ⟨hlt, hafter⟩ := hn.of_ones (k := 4)
  obtain rfl : n = 0 := by omega
  exact hafter.head_of_five

theorem unstuffFrom_stuffFrom {n : Nat} (hn : n < 5) (xs : List Bool) : unstuffFrom n (stuffFrom n xs) = xs := by
  induction xs generalizing n with
  | nil => rfl
  | cons x xs ih =>
    have h5 : n ≠ Config.stuffRun := Nat.ne_of_lt hn
    cases x with
    | false =>
      rw [stuffFrom, unstuffFrom, if_neg h5]
      exact congrArg (false :: ·) (ih (Nat.zero_lt_succ 4))
    | true =>
      rw [stuffFrom]
      split
      · next hrun =>
        rw [unstuffFrom, if_neg h5, if_pos rfl, unstuffFrom, if_pos hrun]
        exact congrArg (true :: ·) (ih (Nat.zero_lt_succ 4))
      · next hrun =>
        have hlt : n + 1 < 5 := Nat.lt_of_le_of_ne hn hrun
        rw [unstuffFrom, if_neg h5, if_pos rfl]
        exact congrArg (true :: ·) (ih hlt)

/-- Settles O39: six 1s would be five with a 1 after them. -/
theorem stuffingIsReversibleAndFlagFree : Obligations.StuffingIsReversibleAndFlagFree := by
  intro xs
  refine ⟨?flagFree, unstuffFrom_stuffFrom (Nat.zero_lt_succ 4) xs, fun _ _ => stuff_after_five⟩
  case flagFree =>
    rintro ⟨before, after, h⟩
    have hsix : stuff xs = before ++ List.replicate 5 true ++ (true :: after) := by
      rw [← h]
      simp [List.replicate_succ]
    simpa using stuff_after_five hsix

/-! ### Runs of an operation -/

/-- A property of the number of operations done, kept by each, holds at the end of a run. -/
theorem repeatOp_of_step {i : Instr} {P : Nat → State → Prop} (n : Nat) {s : State} (h0 : P 0 s)
    (hstep : ∀ k t, k < n → P k t → ∃ u, exec i t = .next u ∧ P (k + 1) u) :
    ∃ t, repeatOp i n s = .next t ∧ P n t := by
  induction n with
  | zero => exact ⟨s, rfl, h0⟩
  | succ n ih =>
    obtain ⟨t, ht, hP⟩ := ih fun k t hk => hstep k t (Nat.lt_succ_of_lt hk)
    obtain ⟨u, hu, hPu⟩ := hstep n t (Nat.lt_succ_self n) hP
    exact ⟨u, by rw [repeatOp_succ_last, ht, andThen_next, hu], hPu⟩

/-- Counting on within a period. -/
theorem div_mod_succ_of_lt {x n : Nat} (h : x % n + 1 < n) : (x + 1) / n = x / n ∧ (x + 1) % n = x % n + 1 := by
  have hx := Nat.div_add_mod x n
  rw [Nat.div_mod_unique (by omega)]
  exact ⟨by omega, h⟩

/-- Counting on into the next period. -/
theorem div_mod_succ_of_le {x n : Nat} (hn : 0 < n) (h : n ≤ x % n + 1) :
    (x + 1) / n = x / n + 1 ∧ (x + 1) % n = 0 := by
  have hx := Nat.div_add_mod x n
  have hlt := Nat.mod_lt x hn
  rw [Nat.div_mod_unique hn, Nat.mul_succ]
  exact ⟨by omega, hn⟩

/-! ### Bytes still to be fetched -/

theorem pendingBytes_of_same {s t : State} (h : sameMemory s t) (mode : Space) (ptr len : Nat) :
    pendingBytes t mode ptr len = pendingBytes s mode ptr len := by
  obtain ⟨hd, hk, -⟩ := h
  have hmem : spaceMem t mode = spaceMem s mode := by cases mode <;> assumption
  rw [pendingBytes, pendingBytes, hmem]

/-- The bytes of a buffer inside the space, the first of them fetched and the pointer moved on. -/
theorem pendingBytes_fetch {s : State} {mode : Space} {ptr len : Nat} (hl : len ≠ 0) (hr : ptr + len ≤ s.cfg.spaceSize) :
    pendingBytes s mode ptr len =
      Mem.read (spaceMem s mode) ptr :: pendingBytes s mode (trunc s.cfg.addrBits (ptr + 1)) (len - 1) := by
  obtain ⟨n, rfl⟩ := Nat.exists_eq_succ_of_ne_zero hl
  rw [pendingBytes_succ]
  cases n with
  | zero => rfl
  | succ n =>
    have hfits : ptr + 1 < 2 ^ s.cfg.addrBits := by
      have : ptr + (n + 2) ≤ 2 ^ s.cfg.addrBits := hr
      omega
    rw [trunc_of_lt hfits]
    rfl

/-! ### RTTY: the bits to come -/

/-- The `n` low bits of a shift register, in the order in which they are sent. -/
def lowBits (n : Nat) (sr : Byte) : List Bool := (List.range n).map sr.getLsbD

theorem lowBits_succ (n : Nat) (sr : Byte) : lowBits (n + 1) sr = sr.getLsbD 0 :: lowBits n (sr >>> (1 : Nat)) := by
  rw [lowBits, List.range_succ_eq_map, List.map_cons, List.map_map, lowBits]
  congr 1
  apply List.map_congr_left
  intro i _
  simp [Nat.add_comm]

/-- The bits of the character being sent that are still to come: its data bits, then the stop bit (41_rtty.md R146). -/
def rttyUnsent (s : State) : List Bool :=
  if s.rttyBit = 0#4 then [] else lowBits (9 - s.rttyBit.toNat) s.rttySr ++ [true]

/-- The bits the RTTY line has still to carry if nothing more is submitted (41_rtty.md R147). -/
def rttyToCome (s : State) : List Bool :=
  rttyUnsent s ++ (pendingBytes s s.rttyMode s.rttyPtr s.rttyLen).flatMap rttyChar

theorem rttyUnsent_start {s : State} (h : s.rttyBit = 0#4) : rttyUnsent s = [] := if_pos h

theorem rttyUnsent_within {s : State} (h : s.rttyBit ≠ 0#4) :
    rttyUnsent s = lowBits (9 - s.rttyBit.toNat) s.rttySr ++ [true] := if_neg h

theorem rttyToCome_of_same {s t : State} (hr : sameRtty s t) (hm : sameMemory s t) : rttyToCome t = rttyToCome s := by
  obtain ⟨hptr, hlen, hmode, -, hbit, hsr, -⟩ := hr
  rw [rttyToCome, rttyToCome, rttyUnsent, rttyUnsent, pendingBytes_of_same hm, hptr, hlen, hmode, hbit, hsr]

/-- A counting tick leaves the bits to come. -/
theorem RttyTicked.toCome_of_count {s t : State} (h : RttyTicked s t) (hie : s.rttyIe = true)
    (hk : s.rttyClk + 1 < s.cfg.nRtty) :
    t.rttyClk = s.rttyClk + 1 ∧ t.rttyLine = s.rttyLine ∧ rttyToCome t = rttyToCome s := by
  obtain rfl := rttyTicked_unique h (.count hie hk)
  exact ⟨rfl, rfl, rfl⟩

/-- A bit boundary puts the first bit to come on the line, or mark where there is none. -/
theorem RttyTicked.toCome_of_boundary {s t : State} (h : RttyTicked s t) (hs : RttyInv s) (hie : s.rttyIe = true)
    (hk : s.cfg.nRtty ≤ s.rttyClk + 1) :
    t.rttyClk = 0 ∧ t.rttyLine = (rttyToCome s).headD true ∧ rttyToCome t = (rttyToCome s).tail := by
  cases h with
  | off h0 => rw [hie] at h0; cases h0
  | count _ hlt => exact absurd hlt (Nat.not_lt.2 hk)
  | idle _ _ hb hl =>
    have hnone : rttyToCome s = [] := by rw [rttyToCome, rttyUnsent_start hb, hl, pendingBytes_zero]; rfl
    rw [hnone]
    exact ⟨rfl, rfl, hnone⟩
  | start _ _ hb hl hp =>
    have hsome : rttyToCome s = false :: (byteBits (Mem.read (spaceMem s s.rttyMode) s.rttyPtr) ++ [true] ++
        (pendingBytes s s.rttyMode (trunc s.cfg.addrBits (s.rttyPtr + 1)) (s.rttyLen - 1)).flatMap rttyChar) := by
      rw [rttyToCome, rttyUnsent_start hb, pendingBytes_fetch hl (hs.range hl)]
      rfl
    rw [hsome]
    exact ⟨rfl, rfl, rfl⟩
  | data _ _ hb h8 =>
    have hb' : s.rttyBit + 1#4 ≠ 0#4 := by bv_omega
    have hnext : 9 - s.rttyBit.toNat = (9 - (s.rttyBit + 1#4).toNat) + 1 := by
      have hadd : (s.rttyBit + 1#4).toNat = s.rttyBit.toNat + 1 := by rw [BitVec.toNat_add, BitVec.toNat_ofNat]; omega
      omega
    have hnow : rttyUnsent s =
        s.rttySr.getLsbD 0 :: (lowBits (9 - (s.rttyBit + 1#4).toNat) (s.rttySr >>> (1 : Nat)) ++ [true]) := by
      rw [rttyUnsent_within hb, hnext, lowBits_succ]
      rfl
    have hthen := rttyUnsent_within (s := rttyData { s with rttyClk := 0 }) hb'
    unfold rttyToCome
    rw [hnow, hthen]
    exact ⟨rfl, rfl, rfl⟩
  | stop _ _ h9 =>
    have hb : s.rttyBit ≠ 0#4 := by rintro h0; simp [h0] at h9
    have hlast : 9 - s.rttyBit.toNat = 0 := by omega
    have hnow : rttyUnsent s = [true] := by rw [rttyUnsent_within hb, hlast]; rfl
    have hthen : rttyUnsent (rttyStop { s with rttyClk := 0 }) = [] := rttyUnsent_start rfl
    unfold rttyToCome
    rw [hnow, hthen]
    exact ⟨rfl, rfl, rfl⟩

/-! ### RTTY: runs of ticks -/

/-- Where the RTTY transmitter of `s` stands after `k` ticks: `x` counts on from its clock, `x / N_RTTY` bits have gone out. -/
structure RttyAfter (s : State) (k : Nat) (t : State) : Prop where
  inv : t.Inv
  ie : t.rttyIe = true
  cfg : t.cfg = s.cfg
  clk : t.rttyClk = (s.rttyClk + k) % s.cfg.nRtty
  toCome : rttyToCome t = (rttyToCome s).drop ((s.rttyClk + k) / s.cfg.nRtty)
  line : ∀ j, (s.rttyClk + k) / s.cfg.nRtty = j + 1 → t.rttyLine = ((rttyToCome s)[j]?).getD true

theorem rttyAfter_zero {s : State} (hs : s.Inv) (hie : s.rttyIe = true) : RttyAfter s 0 s := by
  have hdiv : (s.rttyClk + 0) / s.cfg.nRtty = 0 := Nat.div_eq_of_lt hs.rttyClk
  have hmod : (s.rttyClk + 0) % s.cfg.nRtty = s.rttyClk := Nat.mod_eq_of_lt hs.rttyClk
  refine ⟨hs, hie, rfl, hmod.symm, by rw [hdiv, List.drop_zero], fun j hj => ?_⟩
  rw [hdiv] at hj
  cases hj

theorem headD_drop (l : List Bool) (n : Nat) (d : Bool) : (l.drop n).headD d = (l[n]?).getD d := by
  rw [List.headD_eq_head?_getD, List.head?_drop]

/-- One TICK more, the AFSK half beside it. -/
theorem RttyAfter.tick {s t : State} {k : Nat} (h : RttyAfter s k t) :
    ∃ u, exec .tick t = .next u ∧ RttyAfter s (k + 1) u := by
  obtain ⟨v, u, hr, ha⟩ := exists_ticked h.inv
  refine ⟨u, exec_tick_eq_next.2 ⟨v, hr, ha⟩, ?_⟩
  have hinv := inv_of_afskTicked ha (inv_of_rttyTicked hr h.inv)
  obtain ⟨-, -, rm, -, -, rie, -⟩ := hr.frame
  obtain ⟨ar, -, am, -⟩ := ha.frame
  have hline := ar.2.2.2.2.2.2.1
  have hie : u.rttyIe = true := ar.2.2.2.2.2.2.2.2.trans (rie.trans h.ie)
  have hcfg : u.cfg = s.cfg := am.2.2.trans (rm.2.2.trans h.cfg)
  have hcome := rttyToCome_of_same ar am
  have hclk := ar.2.2.2.1
  by_cases hk : t.rttyClk + 1 < t.cfg.nRtty
  · obtain ⟨vclk, vline, vcome⟩ := hr.toCome_of_count h.ie hk
    rw [h.clk, h.cfg] at hk
    obtain ⟨hdiv, hmod⟩ := div_mod_succ_of_lt hk
    refine ⟨hinv, hie, hcfg, ?_, ?_, ?_⟩
    · rw [hclk, vclk, h.clk, ← Nat.add_assoc, hmod]
    · rw [hcome, vcome, h.toCome, ← Nat.add_assoc, hdiv]
    · rw [← Nat.add_assoc, hdiv, hline, vline]
      exact h.line
  · have hk : t.cfg.nRtty ≤ t.rttyClk + 1 := Nat.not_lt.1 hk
    obtain ⟨vclk, vline, vcome⟩ := hr.toCome_of_boundary (inv_iff.1 h.inv).2.2.1 h.ie hk
    have hpos : 0 < s.cfg.nRtty := h.cfg ▸ nRtty_pos_of_wf h.inv.cfgWF
    rw [h.clk, h.cfg] at hk
    obtain ⟨hdiv, hmod⟩ := div_mod_succ_of_le hpos hk
    refine ⟨hinv, hie, hcfg, ?_, ?_, ?_⟩
    · rw [hclk, vclk, ← Nat.add_assoc, hmod]
    · rw [hcome, vcome, h.toCome, ← Nat.add_assoc, hdiv, List.tail_drop]
    · intro j hj
      rw [← Nat.add_assoc, hdiv] at hj
      rw [hline, vline, h.toCome, headD_drop, Nat.succ.inj hj]

/-- Settles O29: after the ticks given, `j + 1` bits have gone out. -/
theorem rttyLineSendsTheBuffer : Obligations.RttyLineSendsTheBuffer := by
  refine ⟨by decide, ?_⟩
  intro s j m hs hie hb hm
  obtain ⟨t, ht, hafter⟩ := repeatOp_of_step (P := RttyAfter s) (i := .tick)
    ((s.cfg.nRtty - s.rttyClk) + j * s.cfg.nRtty + m) (rttyAfter_zero hs hie) fun _ _ _ h => h.tick
  have hcome : rttyToCome s = (pendingBytes s s.rttyMode s.rttyPtr s.rttyLen).flatMap rttyChar := by
    rw [rttyToCome, rttyUnsent_start hb, List.nil_append]
  have hcount : s.rttyClk + ((s.cfg.nRtty - s.rttyClk) + j * s.cfg.nRtty + m) = m + s.cfg.nRtty * (j + 1) := by
    have := hs.rttyClk
    rw [Nat.mul_succ, Nat.mul_comm s.cfg.nRtty j]
    omega
  have hsent : (s.rttyClk + ((s.cfg.nRtty - s.rttyClk) + j * s.cfg.nRtty + m)) / s.cfg.nRtty = j + 1 := by
    rw [hcount, Nat.add_mul_div_left _ _ (nRtty_pos_of_wf hs.cfgWF), Nat.div_eq_of_lt hm, Nat.zero_add]
  exact ⟨t, ht, hcome ▸ hafter.line j hsent⟩

end Sys2Proof.Machine
end

section
/-! PROOFS of the line functions of the HDLC framer (43_hdlc.md R182 to R188): what a bit period does to the line to come, phase
by phase, and whole bursts of ticks. -/

namespace Sys2Proof.Machine

/-! ### The line to come after one more bit -/

section Emit

variable {s : State}

/-- While the leading flags go out, a bit sent leaves the rest of them, the content and the trailing flags. -/
theorem LineToCome.of_leading_bit (h1 : s.hdlcStuff = false) (h2 : s.hdlcOnes = 0#3) (h3 : s.afskLen ≠ 0)
    (h4 : s.cfg.restCount ≤ s.hdlcRest.toNat) :
    LineToCome (emitBit s) (bitsLeft s.hdlcBit.toNat (s.hdlcSr >>> (1 : Nat)) ++
      (flagRun (s.hdlcRest.toNat - s.cfg.restCount) ++ (stuff (contentBits s) ++ flagRun (s.cfg.restCount + 1)))) := by
  have := LineToCome.leading (s := emitBit s) (by simpa using h1) (emitBit_ones_off h1 h2) (by simpa using h3)
    (by simpa using h4)
  rwa [emitBit_bitsOf, emitBit_contentBits, emitBit_cfg, emitBit_hdlcRest] at this

/-- While the trailing flags go out, a bit sent leaves the rest of them. -/
theorem LineToCome.of_closing_bit (h1 : s.hdlcStuff = false) (h2 : s.hdlcOnes = 0#3) (h3 : s.afskLen = 0)
    (h4 : 1 ≤ s.hdlcRest.toNat) :
    LineToCome (emitBit s) (bitsLeft s.hdlcBit.toNat (s.hdlcSr >>> (1 : Nat)) ++ flagRun (s.hdlcRest.toNat - 1)) := by
  have := LineToCome.closing (s := emitBit s) (by simpa using h1) (emitBit_ones_off h1 h2) (by simpa using h3)
    (by simpa using h4)
  rwa [emitBit_bitsOf, emitBit_hdlcRest] at this

end Emit

/-- What one more bit period does where the line to come was `line`: its first bit is on the tone, and the rest is to come. -/
def SentBit (s t : State) (line : List Bool) : Prop :=
  ∃ x rest, line = x :: rest ∧ LineToCome t rest ∧ t.ddsTone = (if x then s.ddsTone else !s.ddsTone) ∧ t.afskIe = s.afskIe

/-- A bit of the shift register of `u`, a state with the tone of `s`. -/
theorem sentBit_of_emitBit {s u : State} {line rest : List Bool} (hline : line = u.hdlcSr.getLsbD 0 :: rest)
    (hcome : LineToCome (emitBit u) rest) (htone : u.ddsTone = s.ddsTone) (hie : u.afskIe = s.afskIe) :
    SentBit s (emitBit u) line :=
  ⟨_, rest, hline, hcome, by rw [emitBit_ddsTone, htone], by rw [emitBit_afskIe, hie]⟩

/-! ### Bit periods, way by way -/

section Ways

variable {s : State} {line : List Bool}

theorem bitsOf_boundary (h7 : s.hdlcBit = 7#3) : bitsOf s = [] := by rw [bitsOf, h7]; rfl

theorem bitsOf_within (h7 : s.hdlcBit ≠ 7#3) :
    bitsOf s = s.hdlcSr.getLsbD 0 :: bitsLeft (s.hdlcBit + 1#3).toNat (s.hdlcSr >>> (1 : Nat)) := by
  obtain ⟨hlt, hadd⟩ := hdlcBit_step h7
  rw [bitsOf, bitsLeft_cons _ hlt, hadd]

/-- The bits of the flag just loaded, the first of them sent. -/
theorem flagRun_cons (n : Nat) :
    flagRun (n + 1) = Config.flag.getLsbD 0 :: (bitsLeft 0 (Config.flag >>> (1 : Nat)) ++ flagRun n) := by
  rw [flagRun_succ, byteBits_cons]
  rfl

/-- The content to come at a byte boundary: the byte fetched, then the bytes after it. -/
theorem contentBits_fetch (hl : s.afskLen ≠ 0) (hr : s.afskPtr + s.afskLen ≤ s.cfg.spaceSize) :
    contentBits s = byteBits (withContent s).hdlcSr ++ contentBits (withContent s) := by
  rw [contentBits, pendingBytes_fetch hl hr]
  rfl

theorem ones_lt_five {s : State} (h5 : s.hdlcOnes ≠ 5#3) (hle : s.hdlcOnes.toNat ≤ 5) : s.hdlcOnes.toNat < 5 :=
  Nat.lt_of_le_of_ne hle fun e => h5 (BitVec.eq_of_toNat_eq e)

/-- Within a byte, in every phase the next bit of the byte is the first to come. -/
theorem LineToCome.sent_within (h : LineToCome s line) (h5 : s.hdlcOnes ≠ 5#3) (h7 : s.hdlcBit ≠ 7#3) :
    SentBit s (emitBit { s with hdlcBit := s.hdlcBit + 1#3 }) line := by
  cases h with
  | leading h1 h2 h3 h4 =>
    refine sentBit_of_emitBit (by rw [bitsOf_within h7]; rfl) ?_ rfl rfl
    exact LineToCome.of_leading_bit (s := { s with hdlcBit := s.hdlcBit + 1#3 }) h1 h2 h3 h4
  | content h1 h2 h3 =>
    have hlt := ones_lt_five h5 h2
    refine sentBit_of_emitBit (by rw [bitsOf_within h7, List.cons_append, stuffDue_cons _ _ hlt]; rfl) ?_ rfl rfl
    exact LineToCome.of_content_bit (s := { s with hdlcBit := s.hdlcBit + 1#3 }) h1 hlt h3
  | closing h1 h2 h3 h4 =>
    refine sentBit_of_emitBit (by rw [bitsOf_within h7]; rfl) ?_ rfl rfl
    exact LineToCome.of_closing_bit (s := { s with hdlcBit := s.hdlcBit + 1#3 }) h1 h2 h3 h4

/-- A run of five 1s: the 0 due is the first bit to come. -/
theorem LineToCome.sent_stuffed (h : LineToCome s line) (h5 : s.hdlcOnes = 5#3) : SentBit s (stuffZero s) line := by
  have hne : ¬ s.hdlcOnes = 0#3 := by rw [h5]; decide
  cases h with
  | leading _ h2 => exact absurd h2 hne
  | closing _ h2 => exact absurd h2 hne
  | content h1 h2 h3 =>
    have hdue : stuffDue s.hdlcOnes.toNat (bitsOf s ++ contentBits s) =
        false :: stuffDue 0 (bitsOf (stuffZero s) ++ contentBits (stuffZero s)) := by rw [h5]; rfl
    rw [hdue]
    exact ⟨false, _, rfl, LineToCome.content (s := stuffZero s) h1 (Nat.zero_le 5) h3, rfl, rfl⟩

/-- The rest counter after a flag is loaded. -/
theorem rest_sub_one_toNat {r : BitVec 8} (hr : 1 ≤ r.toNat) : (r - 1#8).toNat = r.toNat - 1 := by bv_omega

/-- A byte boundary that takes a flag: the flag's first bit is the first to come. -/
theorem LineToCome.sent_flag (h : LineToCome s line) (h5 : s.hdlcOnes ≠ 5#3) (h7 : s.hdlcBit = 7#3)
    (hf : flagDue s = true) (hlow : 1 ≤ s.hdlcRest.toNat) (hr : s.hdlcRest ≠ 1#8) (hpos : 1 ≤ s.cfg.restCount) :
    SentBit s (emitBit { loadFlag { s with hdlcRest := s.hdlcRest - 1#8 } with hdlcBit := 0#3 }) line := by
  have hsub := rest_sub_one_toNat hlow
  have hne : s.hdlcRest.toNat ≠ 1 := fun e => hr (BitVec.eq_of_toNat_eq e)
  have hdue := flagDue_iff.1 hf
  cases h with
  | leading h1 h2 h3 h4 =>
    have hlt : s.cfg.restCount < s.hdlcRest.toNat := hdue.resolve_right h3
    have hrun : s.hdlcRest.toNat - s.cfg.restCount = ((s.hdlcRest - 1#8).toNat - s.cfg.restCount) + 1 := by omega
    refine sentBit_of_emitBit
      (by rw [bitsOf_boundary h7, List.nil_append, hrun, flagRun_cons, List.cons_append, List.append_assoc]; rfl) ?_ rfl rfl
    exact LineToCome.of_leading_bit (s := { loadFlag { s with hdlcRest := s.hdlcRest - 1#8 } with hdlcBit := 0#3 }) rfl rfl h3
      (show s.cfg.restCount ≤ (s.hdlcRest - 1#8).toNat by omega)
  | content h1 h2 h3 =>
    obtain ⟨hl, hrest⟩ := h3.resolve_left fun h => hdue.elim (fun hlt => absurd hlt (Nat.not_lt.2 h.2)) h.1
    have hrun : s.cfg.restCount = (s.hdlcRest - 1#8).toNat - 1 := by omega
    have hnone : contentBits s = [] := by rw [contentBits, hl]; rfl
    have hdone : stuffDue s.hdlcOnes.toNat [] = [] := if_neg (Nat.ne_of_lt (ones_lt_five h5 h2))
    refine sentBit_of_emitBit
      (by rw [bitsOf_boundary h7, hnone, List.append_nil, hdone, List.nil_append, flagRun_cons, hrun]; rfl) ?_ rfl rfl
    exact LineToCome.of_closing_bit (s := { loadFlag { s with hdlcRest := s.hdlcRest - 1#8 } with hdlcBit := 0#3 }) rfl rfl hl
      (show 1 ≤ (s.hdlcRest - 1#8).toNat by omega)
  | closing h1 h2 h3 h4 =>
    have hrun : s.hdlcRest.toNat - 1 = ((s.hdlcRest - 1#8).toNat - 1) + 1 := by omega
    refine sentBit_of_emitBit (by rw [bitsOf_boundary h7, List.nil_append, hrun, flagRun_cons]; rfl) ?_ rfl rfl
    exact LineToCome.of_closing_bit (s := { loadFlag { s with hdlcRest := s.hdlcRest - 1#8 } with hdlcBit := 0#3 }) rfl rfl h3
      (show 1 ≤ (s.hdlcRest - 1#8).toNat by omega)

/-- The rest counter beside the content that is left once a byte is fetched (43_hdlc.md R178). -/
theorem withContent_rest (hc : s.cfg.WF) (hr : s.hdlcRest.toNat ≤ s.cfg.restCount) :
    (withContent s).afskLen ≠ 0 ∧ (withContent s).hdlcRest.toNat ≤ s.cfg.restCount ∨
    (withContent s).afskLen = 0 ∧ (withContent s).hdlcRest.toNat = s.cfg.restCount + 2 := by
  by_cases hl : s.afskLen - 1 = 0
  · refine .inr ⟨hl, ?_⟩
    show BitVec.toNat (if s.afskLen - 1 = 0 then _ else _) = _
    rw [if_pos hl, ofNat_rest_toNat hc (by rw [restIdle_eq]; omega)]
  · refine .inl ⟨hl, ?_⟩
    show BitVec.toNat (if s.afskLen - 1 = 0 then _ else _) ≤ _
    rwa [if_neg hl]

/-- The content to come, stuffed, begins with bit 0 of the byte fetched. -/
theorem stuffDue_contentBits {n : Nat} (hn : n < 5) (hl : s.afskLen ≠ 0)
    (hrange : s.afskPtr + s.afskLen ≤ s.cfg.spaceSize) :
    stuffDue n (contentBits s) = (withContent s).hdlcSr.getLsbD 0 ::
      stuffDue (if (withContent s).hdlcSr.getLsbD 0 then n + 1 else 0)
        (bitsLeft 0 ((withContent s).hdlcSr >>> (1 : Nat)) ++ contentBits (withContent s)) := by
  rw [contentBits_fetch hl hrange, byteBits_cons, List.cons_append, stuffDue_cons _ _ hn]

/-- A byte boundary that takes content: bit 0 of the byte fetched is the first to come. -/
theorem LineToCome.sent_content (h : LineToCome s line) (h5 : s.hdlcOnes ≠ 5#3) (h7 : s.hdlcBit = 7#3)
    (hf : flagDue s = false) (hc : s.cfg.WF) (hrange : s.afskPtr + s.afskLen ≤ s.cfg.spaceSize) :
    SentBit s (emitBit (withContent s)) line := by
  obtain ⟨hr, hl⟩ := flagDue_eq_false.1 hf
  have hrest := withContent_rest hc hr
  cases h with
  | leading h1 h2 h3 h4 =>
    have hrun : s.hdlcRest.toNat - s.cfg.restCount = 0 := by omega
    have hones : s.hdlcOnes.toNat = 0 := by rw [h2]; rfl
    have hstuff : stuff (contentBits s) = stuffDue 0 (contentBits s) := rfl
    refine sentBit_of_emitBit ?_ (LineToCome.of_content_bit (s := withContent s) rfl (by show s.hdlcOnes.toNat < 5; omega) hrest) rfl rfl
    rw [bitsOf_boundary h7, hrun, hstuff, stuffDue_contentBits (by decide) hl hrange]
    show _ = _ :: (stuffDue (if _ then s.hdlcOnes.toNat + 1 else 0) _ ++ _)
    rw [hones]
    rfl
  | content h1 h2 h3 =>
    have hlt := ones_lt_five h5 h2
    refine sentBit_of_emitBit ?_ (LineToCome.of_content_bit (s := withContent s) rfl hlt hrest) rfl rfl
    rw [bitsOf_boundary h7, List.nil_append, stuffDue_contentBits hlt hl hrange]
    rfl
  | closing h1 h2 h3 h4 => exact absurd h3 hl

/-- A byte boundary that shuts the transmitter down: nothing was to come. -/
theorem LineToCome.eq_nil_of_shut (h : LineToCome s line) (h7 : s.hdlcBit = 7#3) (hf : flagDue s = true)
    (hr : s.hdlcRest = 1#8) (hpos : 1 ≤ s.cfg.restCount) : line = [] ∧ s.afskLen = 0 := by
  have h1 : s.hdlcRest.toNat = 1 := by rw [hr]; rfl
  have hdue := flagDue_iff.1 hf
  cases h with
  | leading _ _ h3 =>
    have := hdue.resolve_right h3
    omega
  | content _ _ h3 =>
    rcases h3 with ⟨hl, -⟩ | ⟨-, hrest⟩
    · have := hdue.resolve_right hl
      omega
    · omega
  | closing _ _ h3 _ => exact ⟨by rw [bitsOf_boundary h7, h1]; rfl, h3⟩

end Ways

/-- What a bit period does to the line to come: its first bit is sent, or, where nothing is to come, the transmitter shuts
down. -/
theorem LineToCome.stepped {s t : State} {line : List Bool} (h : LineToCome s line) (ht : HdlcStepped s t) (hc : s.cfg.WF)
    (hs : AfskInv s) : SentBit s t line ∨ line = [] ∧ s.afskLen = 0 ∧ t = shutdown s := by
  have hpos := restCount_pos_of_wf hc
  cases ht with
  | stuffed h5 => exact .inl (h.sent_stuffed h5)
  | bit h5 h7 => exact .inl (h.sent_within h5 h7)
  | flag h5 h7 hf hr => exact .inl (h.sent_flag h5 h7 hf hs.restLow hr hpos)
  | content h5 h7 hf _ => exact .inl (h.sent_content h5 h7 hf hc (hs.range (flagDue_eq_false.1 hf).2))
  | shut h5 h7 hf hr =>
    obtain ⟨hline, hl⟩ := h.eq_nil_of_shut h7 hf hr hpos
    exact .inr ⟨hline, hl, rfl⟩

/-! ### Ticks -/

/-- The line to come is read off the AFSK registers and the memories. -/
theorem LineToCome.of_same {s t : State} {line : List Bool} (ha : sameAfsk s t) (hm : sameMemory s t)
    (h : LineToCome s line) : LineToCome t line := by
  have hpending := pendingBytes_of_same hm
  obtain ⟨hptr, hlen, hmode, -, -, -, -, hsr, hbit, hones, hstuff, hrest, -, -⟩ := ha
  have hcfg := hm.2.2
  have hbits : bitsOf t = bitsOf s := by rw [bitsOf, bitsOf, hbit, hsr]
  have hcontent : contentBits t = contentBits s := by rw [contentBits, contentBits, hpending, hmode, hptr, hlen]
  cases h with
  | leading h1 h2 h3 h4 =>
    rw [← hbits, ← hcontent, ← hrest, ← hcfg]
    exact .leading (hstuff.trans h1) (hones.trans h2) (hlen ▸ h3) (hcfg ▸ hrest ▸ h4)
  | content h1 h2 h3 =>
    rw [← hbits, ← hcontent, ← hones, ← hcfg]
    exact .content (hstuff.trans h1) (hones ▸ h2) (hcfg ▸ hrest ▸ hlen ▸ h3)
  | closing h1 h2 h3 h4 =>
    rw [← hbits, ← hrest]
    exact .closing (hstuff.trans h1) (hones.trans h2) (hlen.trans h3) (hrest ▸ h4)

/-- The DDS part and the symbol clock leave the line to come. -/
theorem LineToCome.ddsStep {s : State} {line : List Bool} (h : LineToCome s line) (k : Nat) :
    LineToCome { ddsStep s with afskClk := k } line := by
  cases h with
  | leading h1 h2 h3 h4 => exact LineToCome.leading (s := { Machine.ddsStep s with afskClk := k }) h1 h2 h3 h4
  | content h1 h2 h3 => exact LineToCome.content (s := { Machine.ddsStep s with afskClk := k }) h1 h2 h3
  | closing h1 h2 h3 h4 => exact LineToCome.closing (s := { Machine.ddsStep s with afskClk := k }) h1 h2 h3 h4

/-! ### The tone -/

/-- The tone after a sequence of line bits, from mark: a 0 toggles, a 1 holds. -/
def toneAfter (t : Bool) (xs : List Bool) : Bool := xs.foldl (fun t x => if x then t else !t) t

theorem toneAfter_append_one (t : Bool) (xs : List Bool) (x : Bool) :
    toneAfter t (xs ++ [x]) = if x then toneAfter t xs else !toneAfter t xs := by
  rw [toneAfter, List.foldl_append]
  rfl

/-- The transition encoding is the tone after each bit. -/
theorem nrzi_getElem? (t : Bool) {xs : List Bool} {j : Nat} (hj : j < xs.length) :
    (nrzi t xs)[j]? = some (toneAfter t (xs.take (j + 1))) := by
  induction xs generalizing t j with
  | nil => exact absurd hj (Nat.not_lt_zero j)
  | cons x xs ih =>
    cases j with
    | zero => rfl
    | succ j => exact ih _ (Nat.lt_of_succ_lt_succ hj)

/-- One more bit of the line sent. -/
theorem toneAfter_take_succ {t : Bool} {line rest : List Bool} {n : Nat} {x : Bool} (h : line.drop n = x :: rest) :
    toneAfter t (line.take (n + 1)) = (if x then toneAfter t (line.take n) else !toneAfter t (line.take n)) ∧
    line.drop (n + 1) = rest := by
  have hx : (line)[n]? = some x := by rw [← List.head?_drop, h]; rfl
  refine ⟨?_, by rw [← List.tail_drop, h]; rfl⟩
  rw [List.take_add_one, hx]
  exact toneAfter_append_one t _ x

/-! ### Runs of ticks -/

/-- Where the AFSK transmitter stands `k` ticks into a burst of the given line bits: `k / N_AFSK` of them have gone out. -/
structure BurstAfter (c : Config) (line : List Bool) (k : Nat) (t : State) : Prop where
  inv : t.Inv
  ie : t.afskIe = true
  cfg : t.cfg = c
  clk : t.afskClk = k % c.nAfsk
  toCome : LineToCome t (line.drop (k / c.nAfsk))
  tone : t.ddsTone = toneAfter false (line.take (k / c.nAfsk))

theorem burstAfter_zero {s : State} {line : List Bool} (hs : s.Inv) (hie : s.afskIe = true) (hidle : s.AfskIdle)
    (hline : LineToCome s line) : BurstAfter s.cfg line 0 s := by
  obtain ⟨-, hclk, htone, -⟩ := hidle
  refine ⟨hs, hie, rfl, by rw [hclk, Nat.zero_mod], ?_, ?_⟩
  · rw [Nat.zero_div]; exact hline
  · rw [Nat.zero_div, htone]; rfl

/-- A TICK seen from the AFSK transmitter: its half is done first, then the RTTY half, which leaves it alone. -/
theorem exists_afsk_then_rtty {s : State} (hs : s.Inv) :
    ∃ u t, AfskTicked s u ∧ exec .tick s = .next t ∧ t.Inv ∧ sameAfsk u t ∧ sameMemory u t := by
  obtain ⟨v, t, hr, ha⟩ := exists_ticked hs
  obtain ⟨u, hu, hut⟩ := ticked_swap hr ha
  exact ⟨u, t, hu, exec_tick_eq_next.2 ⟨v, hr, ha⟩, inv_of_afskTicked ha (inv_of_rttyTicked hr hs), hut.frame.1,
    hut.frame.2.2.1⟩

/-- The state the AFSK half reaches is a further point of the burst; the RTTY half does not change that. -/
theorem burstAfter_of_same {c : Config} {line : List Bool} {k : Nat} {u t : State} (hinv : t.Inv) (ha : sameAfsk u t)
    (hm : sameMemory u t) (hie : u.afskIe = true) (hcfg : u.cfg = c) (hclk : u.afskClk = k % c.nAfsk)
    (hcome : LineToCome u (line.drop (k / c.nAfsk))) (htone : u.ddsTone = toneAfter false (line.take (k / c.nAfsk))) :
    BurstAfter c line k t := by
  have hcome := hcome.of_same ha hm
  obtain ⟨-, -, -, aclk, -, atone, -, -, -, -, -, -, -, aie⟩ := ha
  exact ⟨hinv, aie.trans hie, hm.2.2.trans hcfg, aclk.trans hclk, hcome, atone.trans htone⟩

section Burst

variable {c : Config} {line : List Bool} {k : Nat} {t : State}

/-- The bit period that starts at a boundary of the burst. -/
theorem BurstAfter.at_boundary (h : BurstAfter c line k t) {u : State} (hu : AfskTicked t u)
    (hk : c.nAfsk ≤ k % c.nAfsk + 1) :
    HdlcStepped (atBoundary t) u ∧ (SentBit (atBoundary t) u (line.drop (k / c.nAfsk)) ∨
      line.drop (k / c.nAfsk) = [] ∧ t.afskLen = 0 ∧ u = shutdown (atBoundary t)) := by
  have hafsk := (inv_iff.1 h.inv).2.2.2.1
  rw [← h.clk, ← h.cfg] at hk
  cases hu with
  | off h0 => rw [h.ie] at h0; cases h0
  | count _ hlt => exact absurd hlt (Nat.not_lt.2 hk)
  | boundary _ _ _ hb =>
    exact ⟨hb, (h.toCome.ddsStep 0).stepped hb h.inv.cfgWF (hafsk.ddsStep (nAfsk_pos_of_wf h.inv.cfgWF))⟩

/-- One TICK more of a burst that is not over. -/
theorem BurstAfter.tick (h : BurstAfter c line k t) (hk : k + 1 < (line.length + 1) * c.nAfsk) :
    ∃ u, exec .tick t = .next u ∧ BurstAfter c line (k + 1) u := by
  obtain ⟨v, u, hv, hu, hinv, ha, hm⟩ := exists_afsk_then_rtty h.inv
  refine ⟨u, hu, ?_⟩
  have hvcfg : v.cfg = c := hv.frame.2.2.1.2.2.trans h.cfg
  have hpos : 0 < c.nAfsk := h.cfg ▸ nAfsk_pos_of_wf h.inv.cfgWF
  by_cases hcount : k % c.nAfsk + 1 < c.nAfsk
  · obtain ⟨hdiv, hmod⟩ := div_mod_succ_of_lt hcount
    rw [← h.clk, ← h.cfg] at hcount
    obtain rfl := afskTicked_unique hv (.count h.ie hcount)
    refine burstAfter_of_same hinv ha hm h.ie hvcfg ?_ ?_ ?_
    · rw [hmod, ← h.clk]
    · rw [hdiv]; exact h.toCome.ddsStep _
    · rw [hdiv]; exact h.tone
  · have hcount : c.nAfsk ≤ k % c.nAfsk + 1 := Nat.not_lt.1 hcount
    obtain ⟨hdiv, hmod⟩ := div_mod_succ_of_le hpos hcount
    have hleft : k / c.nAfsk < line.length := by
      have := (Nat.div_lt_iff_lt_mul hpos).2 hk
      omega
    obtain ⟨hb, ⟨x, rest, hline, hcome, htone, hie⟩ | ⟨hnil, -⟩⟩ := h.at_boundary hv hcount
    · obtain ⟨htake, hdrop⟩ := toneAfter_take_succ (t := false) hline
      refine burstAfter_of_same hinv ha hm (hie.trans h.ie) hvcfg ?_ ?_ ?_
      · rw [hmod, hb.afskClk_eq_zero rfl]
      · rw [hdiv, hdrop]; exact hcome
      · rw [hdiv, htake, htone, ← h.tone]; rfl
    · rw [List.drop_eq_nil_iff] at hnil
      exact absurd hleft (Nat.not_lt.2 hnil)

/-- The TICK at the end of a burst shuts the transmitter down. -/
theorem BurstAfter.last_tick (h : BurstAfter c line k t) (hk : k + 1 = (line.length + 1) * c.nAfsk) :
    ∃ u, exec .tick t = .next u ∧ u.PhaseOff ∧ u.afskTxen = false ∧ u.afskLen = 0 := by
  obtain ⟨v, u, hv, hu, -, ha, hm⟩ := exists_afsk_then_rtty h.inv
  have hpos : 0 < c.nAfsk := h.cfg ▸ nAfsk_pos_of_wf h.inv.cfgWF
  have hwhole : k = line.length * c.nAfsk + (c.nAfsk - 1) := by rw [Nat.succ_mul] at hk; omega
  have hdiv : k / c.nAfsk = line.length := by
    rw [hwhole, Nat.mul_comm, Nat.mul_add_div hpos, Nat.div_eq_of_lt (by omega), Nat.add_zero]
  have hmod : k % c.nAfsk = c.nAfsk - 1 := by
    rw [hwhole, Nat.mul_comm, Nat.mul_add_mod, Nat.mod_eq_of_lt (by omega)]
  obtain ⟨-, ⟨x, rest, hline, -⟩ | ⟨-, hl, rfl⟩⟩ := h.at_boundary hv (by omega)
  · rw [hdiv, List.drop_length] at hline
    cases hline
  · have hidle : u.AfskIdle := AfskIdle_of_same ha hm.2.2 ⟨rfl, rfl, rfl, rfl, rfl, rfl, rfl⟩
    obtain ⟨-, hlen, -, -, -, -, -, -, -, -, -, -, htxen, hie⟩ := ha
    exact ⟨u, hu, ⟨hie, hidle⟩, htxen, hlen.trans hl⟩

end Burst

section Run

variable {s : State} {line : List Bool}

/-- The burst at each of its ticks. -/
theorem repeatOp_tick_burst (hs : s.Inv) (hie : s.afskIe = true) (hidle : s.AfskIdle) (hline : LineToCome s line) {n : Nat}
    (hn : n < (line.length + 1) * s.cfg.nAfsk) :
    ∃ t, repeatOp .tick n s = .next t ∧ BurstAfter s.cfg line n t :=
  repeatOp_of_step (P := BurstAfter s.cfg line) n (burstAfter_zero hs hie hidle hline) fun _ _ hk h => h.tick (by omega)

/-- Before the first boundary the tone is mark. -/
theorem burst_before_first (hs : s.Inv) (hie : s.afskIe = true) (hidle : s.AfskIdle) (hline : LineToCome s line) {m : Nat}
    (hm : m < s.cfg.nAfsk) : ∃ t, repeatOp .tick m s = .next t ∧ t.ddsTone = false := by
  obtain ⟨t, ht, hafter⟩ := repeatOp_tick_burst hs hie hidle hline (n := m) (by rw [Nat.succ_mul]; omega)
  refine ⟨t, ht, ?_⟩
  rw [hafter.tone, Nat.div_eq_of_lt hm]
  rfl

/-- In the bit period of a line bit the tone is that bit's. -/
theorem burst_tone (hs : s.Inv) (hie : s.afskIe = true) (hidle : s.AfskIdle) (hline : LineToCome s line) {j m : Nat}
    (hj : j < line.length) (hm : m < s.cfg.nAfsk) :
    ∃ t, repeatOp .tick ((j + 1) * s.cfg.nAfsk + m) s = .next t ∧ (nrzi false line)[j]? = some t.ddsTone := by
  have hpos := nAfsk_pos_of_wf hs.cfgWF
  have hin : (j + 1) * s.cfg.nAfsk + m < (line.length + 1) * s.cfg.nAfsk := by
    have hle : (j + 2) * s.cfg.nAfsk ≤ (line.length + 1) * s.cfg.nAfsk := Nat.mul_le_mul_right _ (by omega)
    rw [Nat.succ_mul] at hle
    omega
  obtain ⟨t, ht, hafter⟩ := repeatOp_tick_burst hs hie hidle hline hin
  have hsent : ((j + 1) * s.cfg.nAfsk + m) / s.cfg.nAfsk = j + 1 := by
    rw [Nat.mul_comm, Nat.mul_add_div hpos, Nat.div_eq_of_lt hm, Nat.add_zero]
  exact ⟨t, ht, by rw [nrzi_getElem? false hj, hafter.tone, hsent]⟩

/-- A bit period after the last line bit began, the transmitter is off. -/
theorem burst_end (hs : s.Inv) (hie : s.afskIe = true) (hidle : s.AfskIdle) (hline : LineToCome s line) :
    ∃ t, repeatOp .tick ((line.length + 1) * s.cfg.nAfsk) s = .next t ∧ t.PhaseOff ∧ t.afskTxen = false ∧ t.afskLen = 0 := by
  have hpos := nAfsk_pos_of_wf hs.cfgWF
  obtain ⟨n, hn⟩ : ∃ n, n + 1 = (line.length + 1) * s.cfg.nAfsk :=
    ⟨(line.length + 1) * s.cfg.nAfsk - 1, Nat.sub_add_cancel (Nat.mul_pos (Nat.succ_pos _) hpos)⟩
  obtain ⟨t, ht, hafter⟩ := repeatOp_tick_burst hs hie hidle hline (n := n) (by omega)
  obtain ⟨u, hu, hoff⟩ := hafter.last_tick hn
  exact ⟨u, by rw [← hn, repeatOp_succ_last, ht, andThen_next, hu], hoff⟩

end Run

/-! ### The two bursts -/

/-- From the idle values with a buffer pending, the line of R182 is to come. -/
theorem lineToCome_lineBits {s : State} (hc : s.cfg.WF) (hidle : s.AfskIdle) (hl : s.afskLen ≠ 0) :
    LineToCome s (lineBits s.cfg (pendingBytes s s.afskMode s.afskPtr s.afskLen)) := by
  obtain ⟨-, -, -, h7, hones, hstuff, hrest⟩ := hidle
  have hcount : s.hdlcRest.toNat = 10 + s.cfg.restCount := by
    rw [hrest, ofNat_rest_toNat hc (Nat.le_refl _), restIdle_eq]
  have h := LineToCome.leading hstuff hones hl (by omega)
  rwa [bitsOf_boundary h7, hcount, Nat.add_sub_cancel, List.nil_append, ← List.append_assoc] at h

/-- From the idle values with nothing pending, flags alone are to come. -/
theorem lineToCome_flagRun {s : State} (hc : s.cfg.WF) (hidle : s.AfskIdle) (hl : s.afskLen = 0) :
    LineToCome s (flagRun (10 + s.cfg.restCount - 1)) := by
  obtain ⟨-, -, -, h7, hones, hstuff, hrest⟩ := hidle
  have hcount : s.hdlcRest.toNat = 10 + s.cfg.restCount := by
    rw [hrest, ofNat_rest_toNat hc (Nat.le_refl _), restIdle_eq]
  have h := LineToCome.closing hstuff hones hl (by omega)
  rwa [bitsOf_boundary h7, hcount, List.nil_append] at h

/-- Settles O40: the burst of the line of R182, tick by tick. -/
theorem hdlcLineSendsTheFrame : Obligations.HdlcLineSendsTheFrame := by
  rintro s line hs hie hidle hl rfl
  have hline := lineToCome_lineBits hs.cfgWF hidle hl
  exact ⟨fun _ hm => burst_before_first hs hie hidle hline hm, fun _ _ hj hm => burst_tone hs hie hidle hline hj hm,
    burst_end hs hie hidle hline⟩

/-- Settles O41: the burst of flags alone. -/
theorem restStateSendsFlagsOnly : Obligations.RestStateSendsFlagsOnly := by
  rintro s line hs hie hidle hl rfl
  have hline := lineToCome_flagRun hs.cfgWF hidle hl
  exact ⟨fun _ _ hj hm => burst_tone hs hie hidle hline hj hm, burst_end hs hie hidle hline⟩

end Sys2Proof.Machine
end

section
/-! PROOFS of 44_frame_builder.md and 45_base91.md R232: the CRC as a linear map, `FB.BUILD` by its refusals and its write, and
the decoding of the Base-91 digits. -/

namespace Sys2Proof.Machine

/-! ### A CRC round loses nothing -/

theorem crcRound_of_odd {c : Word16} (h : c.getLsbD 0 = true) : crcRound c = (c >>> (1 : Nat)) ^^^ 0x8408#16 := if_pos h

theorem crcRound_of_even {c : Word16} (h : c.getLsbD 0 = false) : crcRound c = c >>> (1 : Nat) :=
  if_neg (by rw [h]; exact Bool.false_ne_true)

/-- The polynomial's top bit tells an odd value's round from 0, and an even value's round keeps all its bits. -/
theorem eq_zero_of_crcRound_eq_zero {c : Word16} (h : crcRound c = 0#16) : c = 0#16 := by
  cases h0 : c.getLsbD 0 with
  | true =>
    rw [crcRound_of_odd h0] at h
    have htop := congrArg (fun v : Word16 => v.getLsbD 15) h
    simp at htop
  | false =>
    rw [crcRound_of_even h0] at h
    apply BitVec.eq_of_getLsbD_eq
    intro i _
    cases i with
    | zero => exact h0
    | succ i =>
      have hbit := congrArg (fun v : Word16 => v.getLsbD i) h
      simpa [Nat.add_comm] using hbit

theorem crcRound_injective : Function.Injective crcRound := by
  intro a b h
  have hz : crcRound (a ^^^ b) = 0#16 := by rw [crcRound_xor, h, BitVec.xor_self]
  exact BitVec.xor_eq_zero_iff.1 (eq_zero_of_crcRound_eq_zero hz)

/-- For each byte the update is a bijection: an injection of a finite set into itself. -/
theorem crcUpdate_bijective (b : Byte) : Function.Bijective fun c : Word16 => crcUpdate c b := by
  apply Finite.injective_iff_bijective.1
  intro x y h
  have h8 : crcRound^[8] (x ^^^ b.setWidth 16) = crcRound^[8] (y ^^^ b.setWidth 16) := by
    rw [← crcRounds_eq_iterate, ← crcRounds_eq_iterate]
    exact h
  exact (BitVec.xor_left_inj _).1 (crcRound_injective.iterate 8 h8)

/-- Settles O44: the update as iterated rounds, its bijectivity, and the values of the spec by evaluation. -/
theorem crcByteUpdatesBijectively : Obligations.CrcByteUpdatesBijectively := by
  refine ⟨fun s b => ?_, crcUpdate_bijective, by decide, by decide, by decide⟩
  rw [exec_crcByte, crcUpdate, crcRounds_eq_iterate]
  rfl

/-! ### The residue -/

/-- Rounds on a value whose low bits are 0 only shift it. -/
theorem crcRounds_of_low_zero {n : Nat} {c : Word16} (h : ∀ i < n, c.getLsbD i = false) : crcRounds n c = c >>> n := by
  induction n generalizing c with
  | zero => rfl
  | succ n ih =>
    have hlow : ∀ i < n, (c >>> (1 : Nat)).getLsbD i = false := by
      intro i hi
      rw [BitVec.getLsbD_ushiftRight]
      exact h _ (by omega)
    rw [crcRounds, crcRound_of_even (h 0 (Nat.succ_pos n)), ih hlow, ← BitVec.shiftRight_add, Nat.add_comm]

/-- Eight rounds take a byte in the high half to the low half. -/
theorem crcRounds_high_byte (c : Word16) : crcRounds 8 (c >>> (8 : Nat) <<< (8 : Nat)) = c >>> (8 : Nat) := by
  rw [crcRounds_of_low_zero (fun i hi => by simp [hi])]
  ext i hi
  simpa using BitVec.lt_of_getLsbD

/-- A complemented byte, widened. -/
theorem setWidth_not_byte (b : Byte) : (~~~b).setWidth 16 = b.setWidth 16 ^^^ 0x00FF#16 := by
  rw [← BitVec.xor_allOnes, BitVec.setWidth_xor]
  rfl

/-- A value less its low byte is its high byte in place. -/
theorem xor_low_byte (c : Word16) : c ^^^ (c.setWidth 8).setWidth 16 = c >>> (8 : Nat) <<< (8 : Nat) := by
  ext i hi
  by_cases h : i < 8
  · simp [h, BitVec.getLsbD_eq_getElem hi]
  · simp [h, BitVec.getLsbD_eq_getElem hi, Nat.add_sub_cancel' (Nat.not_lt.1 h)]

/-- A high byte fits eight bits. -/
theorem setWidth_high_byte (c : Word16) : ((c >>> (8 : Nat)).setWidth 8).setWidth 16 = c >>> (8 : Nat) := by
  ext i hi
  by_cases h : i < 8
  · simp [h]
  · simp [h, BitVec.getLsbD_of_ge c (8 + i) (by omega)]

/-- The low CRC byte leaves the high half of the accumulator and a constant. -/
theorem crcUpdate_fcs_low (c : Word16) : crcUpdate c (~~~(c.setWidth 8)) = c >>> (8 : Nat) ^^^ 0x0F78#16 := by
  have hconst : crcRounds 8 0x00FF#16 = 0x0F78#16 := by decide
  rw [crcUpdate, setWidth_not_byte, ← BitVec.xor_assoc, xor_low_byte, crcRounds_xor, crcRounds_high_byte, hconst]

/-- The high CRC byte then cancels what is left of the accumulator. -/
theorem crcUpdate_fcs (c : Word16) :
    crcUpdate (crcUpdate c (~~~(c.setWidth 8))) (~~~((c >>> (8 : Nat)).setWidth 8)) = 0xF0B8#16 := by
  have hcancel : ∀ x k m : Word16, x ^^^ k ^^^ (x ^^^ m) = k ^^^ m := by
    intro x k m
    rw [BitVec.xor_comm x k, BitVec.xor_assoc, ← BitVec.xor_assoc x, BitVec.xor_self, BitVec.zero_xor]
  rw [crcUpdate_fcs_low, crcUpdate, setWidth_not_byte, setWidth_high_byte, hcancel]
  decide

theorem crcBytes_append_fcs (bs : List Byte) : crcBytes (bs ++ fcsBytes (crcBytes bs)) = 0xF0B8#16 := by
  rw [crcBytes, crcFold, List.foldl_append]
  exact crcUpdate_fcs (crcBytes bs)

/-- The check value, each round evaluated in its turn. -/
theorem crcBytes_check :
    crcBytes [0x31#8, 0x32#8, 0x33#8, 0x34#8, 0x35#8, 0x36#8, 0x37#8, 0x38#8, 0x39#8] = 0x6F91#16 := by
  simp [crcBytes, crcFold, crcUpdate, crcRounds, crcRound, Config.crcInit, Config.crcPoly]

/-! ### A frame and its body -/

section Frames

variable {c : Config} {a : BuildArgs} {payload : List Byte}

/-- Two CRC bytes stand behind the body. -/
theorem length_frameBytes_eq_body : (frameBytes c a payload).length = (frameBody c a payload).length + 2 := by
  rw [frameBytes, List.length_append]
  rfl

theorem take_frameBytes_eq_body :
    (frameBytes c a payload).take ((frameBytes c a payload).length - 2) = frameBody c a payload :=
  List.take_left' (by rw [length_frameBytes_eq_body, Nat.add_sub_cancel])

theorem frameBytes_after_body (i : Nat) :
    (frameBytes c a payload)[(frameBody c a payload).length + i]? =
      (fcsBytes (crcBytes (frameBody c a payload)))[i]? := by
  rw [frameBytes, List.getElem?_append_right (Nat.le_add_right _ _), Nat.add_sub_cancel_left, frameCrc]

end Frames

/-! ### What was written, read back -/

namespace WroteBytes

variable {s t : State} {addr : Nat} {bs : List Byte}

/-- A byte of the range reads as the one written there. -/
theorem read_at (h : WroteBytes s addr bs t) {j : Nat} {b : Byte} (hb : bs[j]? = some b) :
    Mem.read t.dataMem (addr + j) = b := by
  have hj : j < bs.length := (List.getElem?_eq_some_iff.1 hb).1
  rw [h.read, if_pos ⟨Nat.le_add_right _ _, Nat.add_lt_add_left hj addr⟩, Nat.add_sub_cancel_left, hb]
  rfl

/-- The beginning of the range reads as the beginning of what was written. -/
theorem pendingBytes_eq_take (h : WroteBytes s addr bs t) {n : Nat} (hn : n ≤ bs.length) :
    pendingBytes t .data addr n = bs.take n := by
  apply List.ext_getElem
  · rw [pendingBytes_length, List.length_take, Nat.min_eq_left hn]
  · intro j hj _
    rw [pendingBytes_length] at hj
    have hb : bs[j]? = some bs[j] := List.getElem?_eq_getElem _
    simpa [pendingBytes, spaceMem] using h.read_at hb

/-- A frame written reads back as its body and the two CRC bytes of its body. -/
theorem frame_read_back {c : Config} {a : BuildArgs} {payload : List Byte}
    (h : WroteBytes s addr (frameBytes c a payload) t) :
    pendingBytes t .data addr ((frameBytes c a payload).length - 2) = frameBody c a payload ∧
    Mem.read t.dataMem (addr + (frameBytes c a payload).length - 2) =
      ~~~((crcBytes (frameBody c a payload)).setWidth 8) ∧
    Mem.read t.dataMem (addr + (frameBytes c a payload).length - 1) =
      ~~~((crcBytes (frameBody c a payload) >>> (8 : Nat)).setWidth 8) := by
  refine ⟨by rw [h.pendingBytes_eq_take (Nat.sub_le _ 2), take_frameBytes_eq_body], ?_, ?_⟩
  · rw [length_frameBytes_eq_body]
    exact h.read_at (frameBytes_after_body 0)
  · rw [length_frameBytes_eq_body]
    exact h.read_at (frameBytes_after_body 1)

end WroteBytes

/-! ### FB.BUILD -/

section Build

variable {s : State} {a : BuildArgs} (hd : a.dcall.WF) (hs : a.scall.WF) (h1 : a.p1call.WF) (h2 : a.p2call.WF)

include hd hs h1 h2

theorem execFbBuild_of_bad_dst (h : ¬ rangeOk s.cfg a.dst s.cfg.frameCap) :
    execFbBuild a s = .refused (.badOperand 0x38#8 .dst) := by
  rw [execFbBuild, requireCall_of_ok hd, requireCall_of_ok hs, requireCall_of_ok h1, requireCall_of_ok h2,
    requireRange_of_bad h]

variable (hdst : rangeOk s.cfg a.dst s.cfg.frameCap)

include hdst

theorem execFbBuild_of_bad_paddr (h : ¬ rangeOk s.cfg a.paddr a.plen) :
    execFbBuild a s = .refused (.badOperand 0x38#8 .paddr) := by
  rw [execFbBuild, requireCall_of_ok hd, requireCall_of_ok hs, requireCall_of_ok h1, requireCall_of_ok h2,
    requireRange_of_ok hdst, requireRange_of_bad h]

/-- With admitted operands the build is the write of the frame and of the three registers. -/
theorem execFbBuild_of_admitted (h : rangeOk s.cfg a.paddr a.plen) :
    execFbBuild a s = (writeRange s a.dst (frameBytes s.cfg a (pendingBytes s a.pmode a.paddr a.plen))).andThen fun t =>
      .next { t with
        crc := frameCrc s.cfg a (pendingBytes s a.pmode a.paddr a.plen)
        fbLen := (frameBytes s.cfg a (pendingBytes s a.pmode a.paddr a.plen)).length
        fbTrunc := frameTrunc s.cfg a (pendingBytes s a.pmode a.paddr a.plen) } := by
  rw [execFbBuild, requireCall_of_ok hd, requireCall_of_ok hs, requireCall_of_ok h1, requireCall_of_ok h2,
    requireRange_of_ok hdst, requireRange_of_ok h, buildFrame, fetchBytes_of_range h, andThen_next]

end Build

/-- Settles O47: the frame is written whole, and its CRC is that of its body. -/
theorem fbBuildWritesTheFrame : Obligations.FbBuildWritesTheFrame := by
  rintro s a payload frame hc hwf hd hs h1 h2 hdst hpaddr hpayload rfl hun
  obtain rfl : payload = pendingBytes s a.pmode a.paddr a.plen := hpayload
  have hcap := frameBytes_le_cap (payload := pendingBytes s a.pmode a.paddr a.plen) (frameCap_ge_of_wf hc) hd hs h1 h2
  obtain ⟨u, hu⟩ := writeRange_of_range hun ((Nat.add_le_add_left hcap a.dst).trans hdst)
  obtain ⟨m, rfl⟩ : ∃ m, u = { s with dataMem := m } := ⟨_, writeRange_frame hu⟩
  have hwrote := (writeRange_spec hwf hu).2
  have htrunc := frameTrunc_eq hd hs h1 h2 rfl (c := s.cfg) (payload := pendingBytes s a.pmode a.paddr a.plen)
  rw [pendingBytes_length] at htrunc
  rw [exec_fbBuild, execFbBuild_of_admitted hd hs h1 h2 hdst hpaddr, hu, andThen_next]
  refine ⟨_, rfl, ?_, hwrote.read⟩
  rw [take_frameBytes_eq_body, ← htrunc]
  rfl

/-- Settles O48: each refusal by the checks before it that pass and the one that does not. -/
theorem fbBuildRefusesInOrder : Obligations.FbBuildRefusesInOrder := by
  intro s a
  rw [exec_fbBuild]
  refine ⟨fun hd => requireCall_of_bad hd, ?source, ?path1, ?path2, fun hd hs h1 h2 => ⟨?dst, ?paddr, ?owned⟩⟩
  case source =>
    intro hd hs
    rw [execFbBuild, requireCall_of_ok hd, requireCall_of_bad hs]
  case path1 =>
    intro hd hs h1
    rw [execFbBuild, requireCall_of_ok hd, requireCall_of_ok hs, requireCall_of_bad h1]
  case path2 =>
    intro hd hs h1 h2
    rw [execFbBuild, requireCall_of_ok hd, requireCall_of_ok hs, requireCall_of_ok h1, requireCall_of_bad h2]
  case dst => exact fun hout => execFbBuild_of_bad_dst hd hs h1 h2 (Nat.not_le.2 hout)
  case paddr => exact fun hdst hout => execFbBuild_of_bad_paddr hd hs h1 h2 hdst (Nat.not_le.2 hout)
  case owned =>
    intro x hdst hpaddr hlo hhi hx hlowest
    rw [execFbBuild_of_admitted hd hs h1 h2 hdst hpaddr, writeRange_of_lowest hlo hhi hx hlowest]
    rfl

/-- Settles O50: the frame read back from DATA, the known values by evaluation, and the residue. -/
theorem framesEndInTheirCrc : Obligations.FramesEndInTheirCrc := by
  refine ⟨?_, crcBytes_check, rfl, by decide, by decide, crcBytes_append_fcs⟩
  intro s t a body _ hwf h hbody
  rw [exec_fbBuild] at h
  obtain ⟨-, -, -, -, -, -, u, hu, rfl⟩ := execFbBuild_cases h
  have hwrote := (writeRange_spec hwf hu).2
  obtain ⟨hwhole, hlow, hhigh⟩ := hwrote.frame_read_back
  obtain rfl := hbody.trans hwhole
  exact ⟨rfl, hlow, hhigh⟩

/-! ### Base-91 decoded -/

/-- One digit more at the right: the value modulo the next power. -/
theorem mod_pow_succ_91 (v w : Nat) : v % 91 ^ (w + 1) = v / 91 % 91 ^ w * 91 + v % 91 := by
  rw [Nat.pow_succ', Nat.mod_mul, Nat.add_comm, Nat.mul_comm]

/-- Horner's rule on the digits gives the value modulo the power. -/
theorem foldl_b91 (v w : Nat) : (b91 v w).foldl (fun acc b => acc * 91 + (b.toNat - 33)) 0 = v % 91 ^ w := by
  induction w generalizing v with
  | zero => rw [Nat.pow_zero, Nat.mod_one]; rfl
  | succ w ih =>
    rw [b91, List.foldl_append, ih, mod_pow_succ_91]
    show v / 91 % 91 ^ w * 91 + ((b91Digit (v % 91)).toNat - 33) = _
    rw [b91Digit_toNat (Nat.mod_lt _ (by decide)), Nat.add_sub_cancel]

/-- The weighted sum of a digit string of length `w`. -/
def weighted91 (bs : List Byte) (w : Nat) : Nat :=
  ((List.range w).map fun i => (((bs[i]?).getD 0#8).toNat - 33) * 91 ^ (w - 1 - i)).sum

/-- One digit more at the right: the weights before it grow by one power. -/
theorem weighted91_b91_succ (v w : Nat) : weighted91 (b91 v (w + 1)) (w + 1) = weighted91 (b91 (v / 91) w) w * 91 + v % 91 := by
  have hbefore : ∀ i ∈ List.range w, (((b91 v (w + 1))[i]?.getD 0#8).toNat - 33) * 91 ^ (w + 1 - 1 - i) =
      (((b91 (v / 91) w)[i]?.getD 0#8).toNat - 33) * 91 ^ (w - 1 - i) * 91 := by
    intro i hi
    have hlt := List.mem_range.1 hi
    rw [b91_succ_getElem?_of_lt hlt, show w + 1 - 1 - i = (w - 1 - i) + 1 by omega, Nat.pow_succ, Nat.mul_assoc]
  have hlast : ((b91 v (w + 1))[w]?.getD 0#8).toNat - 33 = v % 91 := by
    rw [b91_succ_getElem?_last, Option.getD_some, b91Digit_toNat (Nat.mod_lt _ (by decide)), Nat.add_sub_cancel]
  rw [weighted91, List.range_succ, List.map_append, List.sum_append, List.map_congr_left hbefore, List.sum_map_mul_right]
  rw [List.map_singleton, List.sum_singleton, hlast, Nat.add_sub_cancel, Nat.sub_self, Nat.pow_zero, Nat.mul_one]
  rfl

theorem weighted91_b91 (v w : Nat) : weighted91 (b91 v w) w = v % 91 ^ w := by
  induction w generalizing v with
  | zero => rw [Nat.pow_zero, Nat.mod_one]; rfl
  | succ w ih => rw [weighted91_b91_succ, ih, mod_pow_succ_91]

/-- Settles O54: both ways to weigh the digits give the value modulo the power. -/
theorem b91RoundTrip : Obligations.B91RoundTrip := by
  intro v w d hd
  have hmod : d = v % 91 ^ w := hd.trans (weighted91_b91 v w)
  exact ⟨hmod, fun hlt => hmod.trans (Nat.mod_eq_of_lt hlt), (foldl_b91 v w).trans hmod.symm⟩

end Sys2Proof.Machine
end
